-- ==== Sys2Proof/Word.lean ====
section
/-! DEFINITION. The word types of the codec (00_scope.md R8, R12). -/

namespace Sys2Proof

/-- `u8`: one payload byte (R8, R52). -/
abbrev Byte := BitVec 8

/-- `u16`: an identifier or a 16-bit payload field (R8, R80). -/
abbrev U16 := BitVec 16

/-- `u32`: a record length or the bits of an `f32` field (R8, R81, R88). -/
abbrev U32 := BitVec 32

/-- A sample value: a signed integer (R12, R33). Its stored form is another thing (R56). -/
abbrev Sample := Int

end Sys2Proof
end

