-- ==== Sys2Proof/Syntax.lean ====
section
/-! DEFINITION. The chunk and the ten outcomes of its decoding (30_encoding.md R80, R83, R97): one constructor per
row of the opcode table. Every constructor carries the raw payload: a chunk of the store may hold any payload
(R51), a short one raises in its own rule (R98), and bytes after the fixed fields are ignored (R96). -/

namespace Sys2Proof

/-- A chunk: the pair of a 16-bit identifier and a byte sequence (R51, R80). -/
structure Chunk where
  id : U16
  payload : List Byte
  deriving DecidableEq, Repr

/-- The modulator's instructions. -/
inductive Instr where
  /-- 0x0100, implicit data block (R84, R164). -/
  | data (payload : List Byte)
  /-- 0x0104, defined-format data block (R85, R165). -/
  | dfmt (payload : List Byte)
  /-- 0x0110, carrier tone (R86, R166). -/
  | carrier (payload : List Byte)
  /-- 0x0111, carrier with dummy byte (R87, R167). -/
  | dummy (payload : List Byte)
  /-- 0x0112, integer gap (R89, R168). -/
  | gap (payload : List Byte)
  /-- 0x0113, base-frequency change (R90, R169). -/
  | basefreq (payload : List Byte)
  /-- 0x0114, security cycles (R91, R92, R170, R171). -/
  | security (payload : List Byte)
  /-- 0x0115, phase change (R93, R172). -/
  | phase (payload : List Byte)
  /-- 0x0116, floating gap (R94, R173). -/
  | fgap (payload : List Byte)
  /-- Any other identifier: unrecognised (R97, R175). -/
  | chunk (id : U16) (payload : List Byte)
  deriving DecidableEq, Repr

end Sys2Proof
end

