-- ==== Sys2Proof/WellFormed.lean ====
section
/-! DEFINITION. Which instructions a UEF record can carry: the payload length fits the `u32` length field
(00_scope.md R7, 30_encoding.md R81), and the unrecognised case holds none of the nine recognised identifiers
(R83, R97). -/

namespace Sys2Proof

/-- The nine recognised identifiers (R83). -/
def recognisedIds : List U16 :=
  [0x0100, 0x0104, 0x0110, 0x0111, 0x0112, 0x0113, 0x0114, 0x0115, 0x0116]

/-- The payload length fits the record's `u32` length field (R81). -/
def payloadFits (payload : List Byte) : Bool := decide (payload.length < 2 ^ 32)

/-- An instruction that some record encodes. -/
def Instr.wellFormed : Instr → Bool
  | .data p => payloadFits p
  | .dfmt p => payloadFits p
  | .carrier p => payloadFits p
  | .dummy p => payloadFits p
  | .gap p => payloadFits p
  | .basefreq p => payloadFits p
  | .security p => payloadFits p
  | .phase p => payloadFits p
  | .fgap p => payloadFits p
  | .chunk id p => payloadFits p && !recognisedIds.contains id

end Sys2Proof
end

