-- ==== Sys2Proof/Decode.lean ====
section
/-! DEFINITION. Decoding of chunks and of UEF records, the encoder, and the byte-order helpers they use
(20_memory.md R53, 30_encoding.md R80 to R100, R106). -/

namespace Sys2Proof

/-- Little-endian assembly of a byte sequence into an unsigned number: the byte at the lower address is the least
significant (R11, R53). -/
def leNat : List Byte → Nat
  | [] => 0
  | b :: bs => b.toNat + 256 * leNat bs

/-- The `n` little-endian bytes of a number (R53). -/
def leBytes : Nat → Nat → List Byte
  | 0, _ => []
  | n + 1, v => BitVec.ofNat 8 v :: leBytes n (v / 256)

/-- The identifier that selects an instruction's rule (R83). -/
def Instr.identifier : Instr → U16
  | .data _ => 0x0100
  | .dfmt _ => 0x0104
  | .carrier _ => 0x0110
  | .dummy _ => 0x0111
  | .gap _ => 0x0112
  | .basefreq _ => 0x0113
  | .security _ => 0x0114
  | .phase _ => 0x0115
  | .fgap _ => 0x0116
  | .chunk id _ => id

/-- The payload of an instruction, all of it. -/
def Instr.payload : Instr → List Byte
  | .data p => p
  | .dfmt p => p
  | .carrier p => p
  | .dummy p => p
  | .gap p => p
  | .basefreq p => p
  | .security p => p
  | .phase p => p
  | .fgap p => p
  | .chunk _ p => p

/-- The chunk that an instruction is (R80, R104). -/
def Instr.toChunk (i : Instr) : Chunk := { id := i.identifier, payload := i.payload }

/-- The decoding of a chunk: its identifier, matched on all 16 bits, selects one of exactly ten outcomes, in every
codec state alike (R80, R83, R97, R106). -/
def decodeChunk (c : Chunk) : Instr :=
  if c.id = 0x0100 then .data c.payload
  else if c.id = 0x0104 then .dfmt c.payload
  else if c.id = 0x0110 then .carrier c.payload
  else if c.id = 0x0111 then .dummy c.payload
  else if c.id = 0x0112 then .gap c.payload
  else if c.id = 0x0113 then .basefreq c.payload
  else if c.id = 0x0114 then .security c.payload
  else if c.id = 0x0115 then .phase c.payload
  else if c.id = 0x0116 then .fgap c.payload
  else .chunk c.id c.payload

/-- Why a byte sequence is no record (R100): each is `MalformedChunk` at the container boundary. -/
inductive RecordError where
  /-- One byte where the two of an identifier are needed. -/
  | truncatedIdentifier
  /-- Fewer than the four bytes of a length field. -/
  | truncatedLength
  /-- Fewer payload bytes than `length`. -/
  | truncatedPayload
  deriving DecidableEq, Repr

/-- What reading one record from a byte sequence gives. -/
inductive RecordRead where
  /-- No byte is left: the clean end of a container (R100). -/
  | endOfChunks
  /-- A record, and the bytes after it (R81, R99). -/
  | record (c : Chunk) (rest : List Byte)
  | rejected (e : RecordError)
  deriving DecidableEq, Repr

/-- Read one record: `id:u16`, `length:u32`, then `length` payload bytes (R81, R99, R100). -/
def readRecord (bytes : List Byte) : RecordRead :=
  if bytes = [] then .endOfChunks
  else if bytes.length < 2 then .rejected .truncatedIdentifier
  else if bytes.length < 6 then .rejected .truncatedLength
  else if (bytes.drop 6).length < leNat ((bytes.drop 2).take 4) then .rejected .truncatedPayload
  else .record
    { id := BitVec.ofNat 16 (leNat (bytes.take 2))
      payload := (bytes.drop 6).take (leNat ((bytes.drop 2).take 4)) }
    ((bytes.drop 6).drop (leNat ((bytes.drop 2).take 4)))

/-- What decoding one record gives: the instruction and the bytes after it, the end of the chunks, or a rejection by
name. -/
inductive Decoded where
  | endOfChunks
  | instr (i : Instr) (rest : List Byte)
  | rejected (e : RecordError)
  deriving DecidableEq, Repr

/-- Decode one record of a byte sequence: total on any bytes. -/
def decode (bytes : List Byte) : Decoded :=
  match readRecord bytes with
  | .endOfChunks => .endOfChunks
  | .record c rest => .instr (decodeChunk c) rest
  | .rejected e => .rejected e

/-- The record bytes of a chunk (R81). -/
def encodeChunk (c : Chunk) : List Byte :=
  leBytes 2 c.id.toNat ++ leBytes 4 c.payload.length ++ c.payload

/-- The encoder: the record of an instruction (R81, R83). -/
def encode (i : Instr) : List Byte := encodeChunk i.toChunk

/-- The record bytes that the low `nbits` bits of `w` hold, followed by zero bytes up to the end of the record that the
length field then announces. Bit 0 is the least significant bit of the first byte. -/
def tableWordBytes (nbits w : Nat) : List Byte :=
  leBytes (6 + w % 2 ^ nbits / 2 ^ 16 % 2 ^ 32) (w % 2 ^ nbits)

/-- The instruction the decoder reads from a word of the opcode table. -/
def decodeTableWord (nbits w : Nat) : Option Instr :=
  match decode (tableWordBytes nbits w) with
  | .instr i _ => some i
  | .endOfChunks => none
  | .rejected _ => none

end Sys2Proof
end

