-- ==== Sys2Proof/Config.lean ====
section
/-! DEFINITION. The parameters of the model (00_scope.md R6): what a run is configured with. The spec fixes no
other implementation choice and leaves no value undefined, so there is no opaque constant here. -/

namespace Sys2Proof

/-- Parameter `DEPTH`: 16 or 8 bits a sample (R3, R6). -/
inductive Depth where
  | d8
  | d16
  deriving DecidableEq, Repr

/-- Parameter `SEC_COUNT_FORMULA`: how chunk 0x114 assembles its cycle count (R6, R92). -/
inductive SecCountFormula where
  | intent
  | source
  deriving DecidableEq, Repr

/-- The configuration of MOD (R28): fixed for a run and read-only.
`rate` is `R`. R6 says a positive integer, R293 a positive rational; the wider reading is taken (log entry 5). -/
structure Configuration where
  rate : ℚ
  depth : Depth
  secCount : SecCountFormula
  deriving DecidableEq, Repr

end Sys2Proof
end

