-- ==== Sys2Proof/Machine/Numeric.lean ====
section
/-! DEFINITION. Constants, exact rounding and the binary32 format (00_scope.md R6, R8 to R10, 30_encoding.md R88).
Ratios are taken on natural numbers, so nothing is truncated before the one rounding a rule names. -/

namespace Sys2Proof.Machine

/-- `A`, the full-scale amplitude (R6, R121). -/
def amplitude : Depth → Nat
  | .d8 => 127
  | .d16 => 32767

/-- `OFFSET8`: a stored 8-bit sample is the signed value plus this (R6, R56). -/
def offset8 : Int := 127

/-- `R_DEM` (R6). -/
def rDem : Nat := 44100

/-- `F_SLOW` (R6). -/
def fSlow : Nat := 1200

/-- `F_FAST` (R6). -/
def fFast : Nat := 2400

/-- `TOL` (R6). -/
def tol : Nat := 500

/-- `SYNC_SET` (R6, R202). -/
def syncSet : List Nat := [8, 9, 10, 16, 17, 18, 19]

/-- `CARRIER_MIN` (R6, R202). -/
def carrierMin : Nat := 19

/-- `CARRIER_RATE` (R6, R207). -/
def carrierRate : Nat := 2400

/-- `U16_MAX` (R6). -/
def u16Max : Nat := 65535

/-- `round_half_even(a / b)` for a natural ratio: the nearest integer, the even one half-way (R10). -/
def divRoundHalfEven (a b : Nat) : Nat :=
  if 2 * (a % b) < b then a / b
  else if b < 2 * (a % b) then a / b + 1
  else if a / b % 2 = 0 then a / b
  else a / b + 1

/-- The value of an `f32` field (R88). Both zeros are `finite 0`. -/
inductive F32Value where
  | finite (v : ℚ)
  | infinite (negative : Bool)
  | nan
  deriving DecidableEq, Repr

/-- Bits 30..23 of a binary32, the biased exponent (R88). -/
def f32Exponent (w : U32) : Nat := w.toNat / 2 ^ 23 % 2 ^ 8

/-- Bits 22..0 of a binary32, the fraction (R88). -/
def f32Fraction (w : U32) : Nat := w.toNat % 2 ^ 23

/-- Bit 31 of a binary32, the sign (R88). -/
def f32Negative (w : U32) : Bool := w.getLsbD 31

/-- The magnitude of a finite binary32 in units of `2^(-149)`: `m` when `e = 0`, else `(2^23 + m) * 2^(e-1)` (R88). -/
def f32Units (w : U32) : Nat :=
  if f32Exponent w = 0 then f32Fraction w else (2 ^ 23 + f32Fraction w) * 2 ^ (f32Exponent w - 1)

/-- The value of a binary32 (R88). -/
def f32Value (w : U32) : F32Value :=
  if f32Exponent w = 255 then
    if f32Fraction w = 0 then .infinite (f32Negative w) else .nan
  else if f32Negative w then .finite (mkRat (-(f32Units w : Int)) (2 ^ 149))
  else .finite (mkRat (f32Units w : Int) (2 ^ 149))

/-- Whether `2^(e - 149 + 23) <= num / den`, for the search of a binary32's exponent field. -/
def atLeastPow (num den e : Nat) : Bool := decide (2 ^ (e + 23) * den ≤ num * 2 ^ 149)

/-- The number of exponent steps, at most `fuel`, by which `num / den` exceeds the least normal binary32 scale. -/
def f32Scale (num den : Nat) : Nat → Nat
  | 0 => 0
  | fuel + 1 => if atLeastPow num den (fuel + 1) then fuel + 1 else f32Scale num den fuel

/-- `f32_nearest(num / den)` for a non-negative ratio, ties to the even significand (R10). With `e` the scale, the
value is counted in units of `2^(e - 149)`, rounded, and packed; a carry out of the significand moves into the
exponent by the addition. A value whose rounding exceeds the largest finite binary32 packs to infinity
(PRESUMED, the IEEE default; log entry 11). -/
def f32NearestRatio (num den : Nat) : U32 :=
  BitVec.ofNat 32 (min 0x7F800000
    (f32Scale num den 254 * 2 ^ 23 + divRoundHalfEven (num * 2 ^ 149) (den * 2 ^ f32Scale num den 254)))

/-- `f32_nearest(x)` (R10): the sign bit and the nearest magnitude. R10 speaks of the value only; which zero a zero result is
is the model's choice (DESIGN CHOICE, log entry 20): `-0` for a negative `x` that rounds to zero, `+0` for every other. -/
def f32Nearest (x : ℚ) : U32 :=
  if x.num < 0 then 0x80000000#32 ||| f32NearestRatio x.num.natAbs x.den else f32NearestRatio x.num.natAbs x.den

end Sys2Proof.Machine
end

