-- ==== Sys2Proof/Machine/State.lean ====
section
/-! DEFINITION. The state of the two units (10_state.md R20 to R37), the reasons a step can stop, and the state after
reset (70_reset_and_hazards.md R290 to R292). -/

namespace Sys2Proof.Machine

/-- The named conditions of the hardware (60_exceptions.md R260). -/
inductive Exception where
  | malformedChunk
  | unsupportedFormat
  | phaseMismatch
  | ratioMismatch
  | frequencyMismatch
  | endOfStream
  | invalidValue
  deriving DecidableEq, Repr

/-- The two units (R20). -/
inductive Agent where
  | mod
  | dem
  deriving DecidableEq, Repr

/-- `mod.status` (R25): `index` is the value of `mod.cp` when the fault occurred. -/
inductive ModStatus where
  | running
  | done
  | faulted (code : Exception) (index : Nat)
  deriving DecidableEq, Repr

/-- The modulator's registers (R22 to R27). -/
structure Modulator where
  /-- `mod.base_frequency` in Hz, exact (R22). -/
  baseFrequency : ℚ
  /-- `mod.phase` in degrees, not reduced (R23). -/
  phase : U16
  /-- `mod.cp`, the chunk pointer (R24). -/
  cp : Nat
  /-- `mod.status` (R25). -/
  status : ModStatus
  /-- `mod.out`, the output sample stream OS (R26, R55). -/
  out : List Sample
  /-- `mod.ignored`, the identifiers MOD skipped (R27). -/
  ignored : List U16
  deriving DecidableEq, Repr

/-- `dem.mode` (R31). -/
inductive DemMode where
  | sync
  | carrier
  | startBit
  | byte
  | stopBit
  | done
  deriving DecidableEq, Repr

/-- `dem.origin` (R32): how `StartBit` was entered. -/
inductive Origin where
  | none
  | carrier
  | short
  | stopBit
  deriving DecidableEq, Repr

/-- `dem.status` (R35). -/
inductive DemStatus where
  | running
  | done
  deriving DecidableEq, Repr

/-- An entry of `dem.out` (R35): an emitted chunk and its span `[start, stop)` in sample offsets. -/
structure Emitted where
  chunk : Chunk
  start : Nat
  stop : Nat
  deriving DecidableEq, Repr

/-- The demodulator's registers (R29 to R35). -/
structure Demodulator where
  /-- `dem.base_frequency`, never written and read nowhere (R29). -/
  baseFrequency : ℚ
  /-- `dem.phase`, never written and read nowhere (R29). -/
  phase : U16
  /-- `dem.pos`, the sample cursor (R30). -/
  pos : Nat
  /-- `dem.mode` (R31). -/
  mode : DemMode
  /-- `dem.c`, fast cycles of the current carrier run (R32). -/
  c : Nat
  /-- `dem.run_start` (R32). -/
  runStart : Nat
  /-- `dem.run_end` (R32). -/
  runEnd : Nat
  /-- `dem.origin` (R32). -/
  origin : Origin
  /-- `dem.data_start` (R32). -/
  dataStart : Nat
  /-- `dem.acc`, the byte being assembled, 0..255 (R32). -/
  acc : Byte
  /-- `dem.bit_idx`, data bits assembled so far (R32). -/
  bitIdx : Nat
  /-- `dem.anchor` (R34). -/
  anchor : Nat
  /-- `dem.B`, the last confirmed boundary (R34, R203). -/
  boundary : Nat
  /-- `dem.gap_pending` (R34, R204). -/
  gapPending : Bool
  /-- `dem.gap_start` (R34). -/
  gapStart : Nat
  /-- `dem.out` (R35). -/
  out : List Emitted
  /-- `dem.status` (R35). -/
  status : DemStatus
  deriving DecidableEq, Repr

/-- The whole machine: both units, and the inputs that R37 calls parameters of the step (log entry 2). -/
structure State where
  /-- `R`, `DEPTH` and `SEC_COUNT_FORMULA` (R28). -/
  cfg : Configuration
  /-- The chunk store CS, read-only (R51). -/
  cs : List Chunk
  /-- DEM's input buffer IB, read-only (R58). -/
  ib : List Sample
  /-- The model's own: the unit whose turn the host gives next (log entry 1). -/
  active : Agent
  mod : Modulator
  dem : Demodulator
  deriving DecidableEq, Repr

/-- Why a step stops. -/
inductive Fault where
  /-- Raised by `step` when both units have stopped. Safe: the spec gives no step then (R25, R222, R300). -/
  | unitsStopped
  /-- Raised by `step` when `mod.cp` is past the end of CS, where no chunk exists. Safe: no run reaches it, since
  R160 ends the run at `mod.cp = n` (log entry 4). -/
  | chunkPointerOutside
  deriving DecidableEq, Repr

/-- Why an instruction has no meaning. -/
inductive Refusal where
  /-- Raised by `exec` for an instruction without a meaning yet; no arm of this model answers it. Safe. -/
  | notModelled (mnemonic : String)
  deriving DecidableEq, Repr

/-- MOD reset (R290). -/
def Modulator.reset : Modulator :=
  { baseFrequency := 1200, phase := 180, cp := 0, status := .running, out := [], ignored := [] }

/-- DEM reset (R291). -/
def Demodulator.reset : Demodulator :=
  { baseFrequency := 1200, phase := 180, pos := 0, mode := .sync, c := 0, runStart := 0, runEnd := 0, origin := .none,
    dataStart := 0, acc := 0, bitIdx := 0, anchor := 0, boundary := 0, gapPending := true, gapStart := 0, out := [],
    status := .running }

/-- The machine right after reset (R292): both units reset, no input placed, and the canonical configuration of
R6 (DESIGN CHOICE for the inputs and the configuration, log entry 2). -/
def State.reset : State :=
  { cfg := { rate := 44100, depth := .d16, secCount := .intent }, cs := [], ib := [], active := .mod,
    mod := Modulator.reset, dem := Demodulator.reset }

end Sys2Proof.Machine
end

