-- ==== Sys2Proof/Machine/Classify.lean ====
section
/-! DEFINITION. The classification primitives of DEM (40_signal_primitives.md R140 to R150). Each is a pure function of
the input buffer and a cursor; none writes the cursor (R145). -/

namespace Sys2Proof.Machine

/-- The length of the longest prefix whose elements all satisfy `p`. -/
def prefixLength (p : Sample → Bool) : List Sample → Nat
  | [] => 0
  | x :: xs => if p x then prefixLength p xs + 1 else 0

/-- What `ReadPulse` returns: the sign `g` (never 0), the length and the next cursor, or `EndOfStream` (R140). -/
inductive PulseResult where
  | pulse (g : Int) (len next : Nat)
  | endOfStream
  deriving DecidableEq, Repr

/-- Skip the zeros from `p` (R140). -/
def skipZeros (ib : List Sample) (p : Nat) : Nat := p + prefixLength (fun x => decide (x = 0)) (ib.drop p)

/-- Consume the samples of sign `g` from `p` (R140, R141). -/
def consumeSign (ib : List Sample) (g : Int) (p : Nat) : Nat :=
  p + prefixLength (fun x => decide (x.sign = g)) (ib.drop p)

/-- A zero terminator is consumed; a nonzero one, or the end of the buffer, is not (R140). -/
def consumeTerminator (ib : List Sample) (p : Nat) : Nat := if ib[p]? = some 0 then p + 1 else p

/-- `ReadPulse(p)` (R140). -/
def readPulse (ib : List Sample) (p : Nat) : PulseResult :=
  match ib[skipZeros ib p]? with
  | none => .endOfStream
  | some x =>
    .pulse x.sign (consumeTerminator ib (consumeSign ib x.sign (skipZeros ib p)) - p)
      (consumeTerminator ib (consumeSign ib x.sign (skipZeros ib p)))

/-- A classification result (R36, R142). -/
inductive CycleResult where
  | ok (l1 l2 next : Nat)
  | phaseMismatch
  | ratioMismatch
  | frequencyMismatch
  | endOfStream
  deriving DecidableEq, Repr

/-- `max(l1, l2) / min(l1, l2) > 1.6`, on integers (R144). -/
def ratioTooLarge (l1 l2 : Nat) : Bool := decide (5 * max l1 l2 > 8 * min l1 l2)

/-- `abs(R_DEM / n - F) > 500`, on integers (R144). -/
def frequencyOff (f n : Nat) : Bool := decide (((rDem : Int) - (f : Int) * (n : Int)).natAbs > tol * n)

/-- The three checks, in the order phase, ratio, frequency (R142, R143). -/
def checkCycle (f : Nat) (g1 : Int) (l1 : Nat) (g2 : Int) (l2 next : Nat) : CycleResult :=
  if g1 = g2 then .phaseMismatch
  else if ratioTooLarge l1 l2 then .ratioMismatch
  else if frequencyOff f (l1 + l2) then .frequencyMismatch
  else .ok l1 l2 next

/-- `ClassifyCycle(p, F)` (R142). On a mismatch the caller keeps its cursor at `p` (R145). -/
def classifyCycle (ib : List Sample) (p f : Nat) : CycleResult :=
  match readPulse ib p with
  | .endOfStream => .endOfStream
  | .pulse g1 l1 p1 =>
    match readPulse ib p1 with
    | .endOfStream => .endOfStream
    | .pulse g2 l2 p2 => checkCycle f g1 l1 g2 l2 p2

/-- What `ReadStop` returns (R148). -/
inductive StopResult where
  | stop (next : Nat)
  | fail
  | endOfStream
  deriving DecidableEq, Repr

/-- `ReadStop(p)`: two fast cycles (R148). -/
def readStop (ib : List Sample) (p : Nat) : StopResult :=
  match classifyCycle ib p fFast with
  | .endOfStream => .endOfStream
  | .phaseMismatch => .fail
  | .ratioMismatch => .fail
  | .frequencyMismatch => .fail
  | .ok _ _ q =>
    match classifyCycle ib q fFast with
    | .endOfStream => .endOfStream
    | .phaseMismatch => .fail
    | .ratioMismatch => .fail
    | .frequencyMismatch => .fail
    | .ok _ _ next => .stop next

/-- What `ReadBit` returns (R148). -/
inductive BitResult where
  | bit (b : Bool) (next : Nat)
  | fail
  | endOfStream
  deriving DecidableEq, Repr

/-- A 1-bit is what `ReadStop` reads: the second half of `ReadBit` (R148). -/
def readOne (ib : List Sample) (p : Nat) : BitResult :=
  match readStop ib p with
  | .stop next => .bit true next
  | .fail => .fail
  | .endOfStream => .endOfStream

/-- `ReadBit(p)`: one slow cycle is a 0, two fast cycles are a 1; the slow cycle is tried first (R148). -/
def readBit (ib : List Sample) (p : Nat) : BitResult :=
  match classifyCycle ib p fSlow with
  | .endOfStream => .endOfStream
  | .ok _ _ next => .bit false next
  | .phaseMismatch => readOne ib p
  | .ratioMismatch => readOne ib p
  | .frequencyMismatch => readOne ib p

/-- The condition a mismatch or the end of the stream is named by (R260, R264 to R267). -/
def cycleException : CycleResult → Option Exception
  | .ok _ _ _ => none
  | .phaseMismatch => some .phaseMismatch
  | .ratioMismatch => some .ratioMismatch
  | .frequencyMismatch => some .frequencyMismatch
  | .endOfStream => some .endOfStream

end Sys2Proof.Machine
end

