-- ==== Sys2Proof/Machine/Demod.lean ====
section
/-! DEFINITION. The demodulator: emission and the step of each mode (42_demodulator.md R200 to R222). -/

namespace Sys2Proof.Machine

/-- The Data chunk 0x100 of some bytes (R105, R223). -/
def dataChunk (bytes : List Byte) : Chunk := { id := 0x0100, payload := bytes }

/-- The Carrier chunk 0x110 of a cycle count (R105, R207). -/
def carrierChunk (cycles : Nat) : Chunk := { id := 0x0110, payload := leBytes 2 cycles }

/-- `GapSeconds(k) = f32_nearest(k / 2 / R_DEM)`; the division by 2 is the spec's (R208). -/
def gapSeconds (k : Nat) : U32 := f32NearestRatio k (2 * rDem)

/-- The Gap chunk 0x116 of a span of `k` samples (R105, R208). -/
def gapChunk (k : Nat) : Chunk := { id := 0x0116, payload := leBytes 4 (gapSeconds k).toNat }

/-- Append an entry to `dem.out` (R205). -/
def Demodulator.append (d : Demodulator) (entries : List Emitted) : Demodulator := { d with out := d.out ++ entries }

/-- `FlushGap(e)` (R206). -/
def Demodulator.flushGap (d : Demodulator) (e : Nat) : Demodulator :=
  if d.gapPending then
    if d.gapStart < e then
      { d.append [{ chunk := gapChunk (e - d.gapStart), start := d.gapStart, stop := e }] with gapPending := false }
    else { d with gapPending := false }
  else d

/-- `round_half_even(span * 2400 / R_DEM)` (R207). -/
def carrierCycles (span : Nat) : Nat := divRoundHalfEven (span * carrierRate) rDem

/-- The counts of the Carrier chunks of a run: one, or full ones of 65535 and a nonzero rest (R207). -/
def carrierCounts (cycles : Nat) : List Nat :=
  if cycles ≤ u16Max then [cycles]
  else List.replicate (cycles / u16Max) u16Max ++ if cycles % u16Max = 0 then [] else [cycles % u16Max]

/-- The entries of a closed run: the first has the run's span, every later one the empty span at its end (R207). -/
def carrierEntries (start stop : Nat) : List Nat → List Emitted
  | [] => []
  | n :: rest =>
    { chunk := carrierChunk n, start := start, stop := stop }
      :: rest.map fun k => { chunk := carrierChunk k, start := stop, stop := stop }

/-- `EmitCarrier()` (R207). -/
def Demodulator.emitCarrier (d : Demodulator) : Demodulator :=
  d.append (carrierEntries d.runStart d.runEnd (carrierCounts (carrierCycles (d.runEnd - d.runStart))))

/-- Whether an entry is a Data chunk. -/
def Emitted.isData (e : Emitted) : Bool := decide (e.chunk.id = 0x0100)

/-- The rest of `AppendByte(v)` after its flush: join the last chunk when that is Data, else open one (R209). -/
def Demodulator.joinByte (d : Demodulator) (v : Byte) : Demodulator :=
  match d.out.getLast? with
  | some e =>
    if e.isData then
      { d with out := d.out.dropLast ++ [{ chunk := dataChunk (e.chunk.payload ++ [v]), start := e.start, stop := d.pos }] }
    else d.append [{ chunk := dataChunk [v], start := d.dataStart, stop := d.pos }]
  | none => d.append [{ chunk := dataChunk [v], start := d.dataStart, stop := d.pos }]

/-- `AppendByte(v)` (R209). -/
def Demodulator.appendByte (d : Demodulator) (v : Byte) : Demodulator := (d.flushGap d.dataStart).joinByte v

/-- Set the span end of the last chunk of `dem.out` (R219). -/
def Demodulator.extendLast (d : Demodulator) (stop : Nat) : Demodulator :=
  match d.out.getLast? with
  | some e => { d with out := d.out.dropLast ++ [{ e with stop := stop }] }
  | none => d

/-- `Failure`, the resume rule (R220). -/
def Demodulator.failure (d : Demodulator) : Demodulator :=
  let resumed :=
    if d.gapPending then { d with pos := d.anchor + 1 }
    else { d with pos := d.boundary, gapStart := d.boundary, gapPending := true }
  { resumed with c := 0, acc := 0, bitIdx := 0, origin := .none, mode := .sync }

/-- The run in progress, closed by the end of the stream when it is a carrier (R221, R203). -/
def Demodulator.closeRun (d : Demodulator) : Demodulator :=
  if d.mode = .carrier ∧ carrierMin ≤ d.c then
    { (d.flushGap d.runStart).emitCarrier with boundary := d.runEnd }
  else d

/-- A gap from the last confirmed boundary, when none is pending (R221). -/
def Demodulator.openGap (d : Demodulator) : Demodulator :=
  if d.gapPending then d else { d with gapStart := d.boundary, gapPending := true }

/-- End of stream, in any state (R221); `len` is `L`. -/
def Demodulator.endOfStream (d : Demodulator) (len : Nat) : Demodulator :=
  { d.closeRun.openGap.flushGap len with mode := .done, status := .done }

/-- `Sync` accepts the candidate at the cursor, which stays there (R210). -/
def Demodulator.accept (d : Demodulator) : Demodulator :=
  { d with anchor := d.pos, runStart := d.pos, runEnd := d.pos, c := 0, mode := .carrier }

/-- The `Sync` step (R210). -/
def syncStep (ib : List Sample) (d : Demodulator) : Demodulator :=
  match readPulse ib d.pos with
  | .endOfStream => d.endOfStream ib.length
  | .pulse g len _ => if g = -1 ∧ len ∈ syncSet then d.accept else { d with pos := d.pos + 1 }

/-- A fast cycle of the run is read (R212). -/
def Demodulator.countCycle (d : Demodulator) (next : Nat) : Demodulator :=
  { d with c := d.c + 1, pos := next, runEnd := next }

/-- The end of a run: a genuine carrier is closed (R213), a short run is kept for the next byte's span (R214). -/
def Demodulator.endRun (d : Demodulator) : Demodulator :=
  if carrierMin ≤ d.c then
    { (d.flushGap d.runStart).emitCarrier with
      boundary := d.runEnd, origin := .carrier, dataStart := d.runEnd, mode := .startBit }
  else { d with origin := .short, dataStart := d.runStart, mode := .startBit }

/-- The `Carrier` step (R212 to R214). -/
def carrierStep (ib : List Sample) (d : Demodulator) : Demodulator :=
  match classifyCycle ib d.pos fFast with
  | .ok _ _ next => d.countCycle next
  | .endOfStream => d.endOfStream ib.length
  | .phaseMismatch => d.endRun
  | .ratioMismatch => d.endRun
  | .frequencyMismatch => d.endRun

/-- A start bit is read (R215). -/
def Demodulator.startByte (d : Demodulator) (next : Nat) : Demodulator :=
  { d with pos := next, acc := 0, bitIdx := 0, mode := .byte }

/-- The first fast cycle of a carrier that follows a stop bit (R216). -/
def Demodulator.startRun (d : Demodulator) (next : Nat) : Demodulator :=
  { d with runStart := d.pos, pos := next, runEnd := next, c := 1, mode := .carrier }

/-- `StartBit` failure: after a stop bit a fast cycle may start a carrier, else the resume rule (R216). -/
def startBitFailure (ib : List Sample) (d : Demodulator) : Demodulator :=
  if d.origin = .stopBit then
    match classifyCycle ib d.pos fFast with
    | .ok _ _ next => d.startRun next
    | .endOfStream => d.endOfStream ib.length
    | .phaseMismatch => d.failure
    | .ratioMismatch => d.failure
    | .frequencyMismatch => d.failure
  else d.failure

/-- The `StartBit` step (R215, R216). -/
def startBitStep (ib : List Sample) (d : Demodulator) : Demodulator :=
  match classifyCycle ib d.pos fSlow with
  | .ok _ _ next => d.startByte next
  | .endOfStream => d.endOfStream ib.length
  | .phaseMismatch => startBitFailure ib d
  | .ratioMismatch => startBitFailure ib d
  | .frequencyMismatch => startBitFailure ib d

/-- A data bit is read: `dem.acc <- dem.acc + b * 2^dem.bit_idx` (R217). -/
def Demodulator.takeBit (d : Demodulator) (b : Bool) (next : Nat) : Demodulator :=
  { d with acc := d.acc + (if b then 1#8 <<< d.bitIdx else 0#8), bitIdx := d.bitIdx + 1, pos := next }

/-- The eighth bit completes the byte, before its stop bit is read (R218). -/
def Demodulator.completeByte (d : Demodulator) : Demodulator :=
  { d.appendByte d.acc with boundary := d.pos, mode := .stopBit }

/-- The `Byte` step (R217, R218). -/
def byteStep (ib : List Sample) (d : Demodulator) : Demodulator :=
  match readBit ib d.pos with
  | .bit b next => if d.bitIdx + 1 = 8 then (d.takeBit b next).completeByte else d.takeBit b next
  | .fail => d.failure
  | .endOfStream => d.endOfStream ib.length

/-- A stop bit is read (R219). -/
def Demodulator.takeStop (d : Demodulator) (next : Nat) : Demodulator :=
  { d.extendLast next with pos := next, boundary := next, origin := .stopBit, mode := .startBit }

/-- The `StopBit` step (R219). -/
def stopBitStep (ib : List Sample) (d : Demodulator) : Demodulator :=
  match readStop ib d.pos with
  | .stop next => d.takeStop next
  | .fail => d.failure
  | .endOfStream => d.endOfStream ib.length

/-- The DEM step, by mode; `Done` has none (R200, R222). -/
def demStep (ib : List Sample) (d : Demodulator) : Demodulator :=
  match d.mode with
  | .sync => syncStep ib d
  | .carrier => carrierStep ib d
  | .startBit => startBitStep ib d
  | .byte => byteStep ib d
  | .stopBit => stopBitStep ib d
  | .done => d

/-- The DEM step of the machine. -/
def State.stepDem (s : State) : State := { s with dem := demStep s.ib s.dem }

end Sys2Proof.Machine
end

