-- ==== Sys2Proof/Machine/Ops.lean ====
section
/-! DEFINITION. The shared operations of MOD (00_scope.md R11, 20_memory.md R51 to R55, 41_modulator.md R160, R174,
60_exceptions.md R268): reading the payload, emitting, writing a codec register, completing a chunk, and taking a
fatal exception. The spec has no return from an exception (R272), so none stands beside it. -/

namespace Sys2Proof.Machine

open Host (Outcome)

/-- `MemRead(off, n)` of the payload (R11, R52, R53); `none` is the read that raises `MalformedChunk`, because it
reaches past the last byte. -/
def memRead (payload : List Byte) (off n : Nat) : Option Nat :=
  if off + n ≤ payload.length then some (leNat ((payload.drop off).take n)) else none

/-- `Emit(samples)` (R55): append to OS, the only write to it. -/
def State.emit (s : State) (samples : List Sample) : State :=
  { s with mod := { s.mod with out := s.mod.out ++ samples } }

/-- `mod.base_frequency <- f` (R169). -/
def State.setBaseFrequency (s : State) (f : ℚ) : State :=
  { s with mod := { s.mod with baseFrequency := f } }

/-- `mod.phase <- d` (R172). -/
def State.setPhase (s : State) (d : U16) : State :=
  { s with mod := { s.mod with phase := d } }

/-- `mod.ignored <- mod.ignored ++ [id]` (R175). -/
def State.recordIgnored (s : State) (id : U16) : State :=
  { s with mod := { s.mod with ignored := s.mod.ignored ++ [id] } }

/-- `mod.cp <- mod.cp + 1`: the end of a step that raises nothing (R24, R160). -/
def State.advance (s : State) : State :=
  { s with mod := { s.mod with cp := s.mod.cp + 1 } }

/-- The end of the run: `mod.status <- Done` (R160). -/
def State.finish (s : State) : State :=
  { s with mod := { s.mod with status := .done } }

/-- Taking a fatal exception (R160, R268): `mod.status <- Faulted(code, mod.cp)`. `mod.cp` keeps the index of the
faulting chunk, and the codec state, `mod.out` and `mod.ignored` keep their values. -/
def State.takeException (s : State) (code : Exception) : State :=
  { s with mod := { s.mod with status := .faulted code s.mod.cp } }

/-- The chunk completes: every effect it had is in `s`, and the chunk pointer moves on. -/
def complete (s : State) : Outcome State Fault Refusal := .next s.advance

/-- The chunk raises: none of its effects is in `s` (R174), and the exception is taken. -/
def raise (code : Exception) (s : State) : Outcome State Fault Refusal := .next (s.takeException code)

/-- The `info` carried with a MOD fault: the identifier of the faulting chunk (R260). -/
def State.faultInfo (s : State) : Option U16 :=
  match s.mod.status with
  | .faulted _ index => (s.cs[index]?).map Chunk.id
  | .running => none
  | .done => none

/-- The number an exception is given (R260). -/
def exceptionCode : Exception → Nat
  | .malformedChunk => 1
  | .unsupportedFormat => 2
  | .phaseMismatch => 3
  | .ratioMismatch => 4
  | .frequencyMismatch => 5
  | .endOfStream => 6
  | .invalidValue => 7

/-- The class of an exception (R260). -/
inductive ExceptionClass where
  | fatal
  | fatalAtOpen
  | recoverable
  | normalEnd
  deriving DecidableEq, Repr

/-- The class an exception has (R260). -/
def exceptionClass : Exception → ExceptionClass
  | .malformedChunk => .fatal
  | .unsupportedFormat => .fatalAtOpen
  | .phaseMismatch => .recoverable
  | .ratioMismatch => .recoverable
  | .frequencyMismatch => .recoverable
  | .endOfStream => .normalEnd
  | .invalidValue => .fatal

/-- What MOD's fetch finds at `mod.cp` (R51, R160). -/
inductive Fetched where
  | instr (i : Instr)
  | endOfChunks
  | outside
  deriving DecidableEq, Repr

/-- Fetch and decode the chunk at `mod.cp`: one whole record of CS, at any time the same (R51, R67, R106). -/
def State.fetch (s : State) : Fetched :=
  match s.cs[s.mod.cp]? with
  | some c => .instr (decodeChunk c)
  | none => if s.mod.cp = s.cs.length then .endOfChunks else .outside

end Sys2Proof.Machine
end

