-- ==== Sys2Proof/Machine/Operands.lean ====
section
/-! DEFINITION. The operands of each chunk, read from its payload (30_encoding.md R84 to R94). `none` is the read past
the payload that raises `MalformedChunk` (R98); bytes after the fixed fields are not read (R96). -/

namespace Sys2Proof.Machine

/-- A `u16` field at an offset (R60). -/
def readU16 (payload : List Byte) (off : Nat) : Option Nat := memRead payload off 2

/-- A one-byte field at an offset (R60). -/
def readU8 (payload : List Byte) (off : Nat) : Option Byte := (memRead payload off 1).map (BitVec.ofNat 8)

/-- An `f32` field at an offset (R60, R88). -/
def readF32 (payload : List Byte) (off : Nat) : Option F32Value :=
  (memRead payload off 4).map fun w => f32Value (BitVec.ofNat 32 w)

/-- The operands of 0x104 (R85). -/
structure DfmtOperands where
  nbits : Nat
  parity : Byte
  stops : Int
  bytes : List Byte
  deriving DecidableEq, Repr

/-- 0x104: `data_bit_count`, `parity`, `stop_bit_count` as a signed byte, and the data bytes (R85). -/
def dfmtOperands (payload : List Byte) : Option DfmtOperands :=
  match readU8 payload 0, readU8 payload 1, readU8 payload 2 with
  | some n, some p, some st => some { nbits := n.toNat, parity := p, stops := st.toInt, bytes := payload.drop 3 }
  | _, _, _ => none

/-- 0x110 and 0x112: `cycle_count` (R86, R89). -/
def cycleCount (payload : List Byte) : Option Nat := readU16 payload 0

/-- 0x111: `n1` and `n2` (R87). -/
def dummyOperands (payload : List Byte) : Option (Nat × Nat) :=
  match readU16 payload 0, readU16 payload 2 with
  | some n1, some n2 => some (n1, n2)
  | _, _ => none

/-- 0x113: `frequency` (R90). -/
def frequencyOperand (payload : List Byte) : Option F32Value := readF32 payload 0

/-- 0x115: `phase_degrees` (R93). -/
def phaseOperand (payload : List Byte) : Option U16 := (readU16 payload 0).map (BitVec.ofNat 16)

/-- 0x116: `seconds` (R94). -/
def secondsOperand (payload : List Byte) : Option F32Value := readF32 payload 0

/-- The 0x114 cycle count from its two fields, by the configured formula (R92). -/
def securityCount (f : SecCountFormula) (lo hi : Byte) : Nat :=
  match f with
  | .intent => lo.toNat + 256 * hi.toNat
  | .source => hi.toNat * 2 ^ (8 + lo.toNat)

/-- The fixed part of 0x114 (R91). -/
structure SecurityOperands where
  count : Nat
  first : Byte
  last : Byte
  deriving DecidableEq, Repr

/-- 0x114: the count, by the configured formula, and the two pulse modes (R91, R92). The bit payload is checked and
read apart (R270). -/
def securityOperands (f : SecCountFormula) (payload : List Byte) : Option SecurityOperands :=
  match readU8 payload 0, readU8 payload 1, readU8 payload 2, readU8 payload 3 with
  | some lo, some hi, some first, some last => some { count := securityCount f lo hi, first := first, last := last }
  | _, _, _, _ => none

/-- The bit payload holds at least `ceil(count / 8)` bytes (R91, R170). -/
def bitPayloadFits (payload : List Byte) (count : Nat) : Bool := decide ((count + 7) / 8 ≤ payload.length - 4)

/-- `bit(k)` of the 0x114 bit payload, most significant first in each byte (R91). -/
def securityBit (payload : List Byte) (k : Nat) : Bool := (payload.getD (4 + k / 8) 0).getLsbD (7 - k % 8)

end Sys2Proof.Machine
end

