-- ==== Sys2Proof/Machine/Flags.lean ====
section
/-! DEFINITION. The flag-like values: the parity of data bits (41_modulator.md R163), and whether a unit still has a
step (10_state.md R25, R31, 42_demodulator.md R222). The hardware has no arithmetic flags (R31). -/

namespace Sys2Proof.Machine

/-- `x`, the exclusive or of the data bits emitted (R162, R163). -/
def parityOf (bits : List Bool) : Bool := bits.foldl xor false

/-- The parity bit that follows the data bits, if the parity byte asks for one: `x` for 'E' (0x45), `1 - x` for 'O'
(0x4F), and none for any other byte, 'N' (0x4E) included (R163). -/
def parityBit (parity : Byte) (bits : List Bool) : List Bool :=
  if parity = 0x45 then [parityOf bits]
  else if parity = 0x4F then [!parityOf bits]
  else []

/-- MOD has a step just while its status is `Running` (R25, R160). -/
def State.modRuns (s : State) : Bool := decide (s.mod.status = .running)

/-- DEM has a step in every mode but `Done` (R200, R222). -/
def Demodulator.runs (d : Demodulator) : Bool := decide (d.mode ≠ .done)

/-- The unit that steps next: the one whose turn it is, or the other once that one has stopped (log entry 1). -/
def State.nextUnit (s : State) : Option Agent :=
  match s.active with
  | .mod => if s.modRuns then some .mod else if s.dem.runs then some .dem else none
  | .dem => if s.dem.runs then some .dem else if s.modRuns then some .mod else none

end Sys2Proof.Machine
end

