-- ==== Sys2Proof/Machine/Sine.lean ====
section
/-! DEFINITION. Exact sample quantisation `SINEQ` (40_signal_primitives.md R124, R126, R127), on integers alone.

The nearest integer to `amp * |sin|` is found by comparing `cos(j*pi/n)` with the half-way points `(2k-1)/(2*amp)`.
Such a comparison is decided exactly: with `theta = arccos(p/q)`, `cos(j*pi/n) >= p/q` holds just when
`j*pi <= n*theta`, that is when `j` is at most the number of whole half turns in `n*theta`; and those half turns are
counted from the signs of the integers `q^k * cos(k*theta)` and `q^(k-1) * sin(k*theta) / sin(theta)`, which doubling
and adding `theta` compute without error. That this is R126's `round_half_away(amp * sin(...))` is a statement of the
obligations (log entry 6). -/

namespace Sys2Proof.Machine

/-- The multiple `k*theta` of an angle `theta` in `(0, pi)` with `cos theta = p/q`. -/
structure Turn where
  /-- `floor(k*theta / pi)`, the whole half turns. -/
  halves : Nat
  /-- `q^k * cos(k*theta)`. -/
  cosPart : Int
  /-- `q^(k-1) * sin(k*theta) / sin(theta)`. -/
  sinPart : Int
  /-- `q^k`. -/
  scale : Int
  deriving DecidableEq, Repr

/-- `(-1)^halves * x`. -/
def alternate (halves : Nat) (x : Int) : Int := if halves % 2 = 0 then x else -x

/-- The zero multiple of an angle. -/
def Turn.zero : Turn := { halves := 0, cosPart := 1, sinPart := 0, scale := 1 }

/-- Twice the multiple: a half turn more is passed just when `k*theta` is at least a quarter turn past its own. -/
def Turn.double (t : Turn) : Turn :=
  { halves := if alternate t.halves t.cosPart ≤ 0 then 2 * t.halves + 1 else 2 * t.halves
    cosPart := 2 * t.cosPart * t.cosPart - t.scale * t.scale
    sinPart := 2 * t.cosPart * t.sinPart
    scale := t.scale * t.scale }

/-- One `theta` more: a half turn more is passed just when the sine changes sign or vanishes. -/
def Turn.next (p q : Int) (t : Turn) : Turn :=
  { halves := if alternate t.halves (t.cosPart + p * t.sinPart) ≤ 0 then t.halves + 1 else t.halves
    cosPart := p * t.cosPart - (q * q - p * p) * t.sinPart
    sinPart := t.cosPart + p * t.sinPart
    scale := t.scale * q }

/-- The multiple `n*theta`, over the binary digits of `n` (`fuel` bounds their number). -/
def turnOf (p q : Int) : Nat → Nat → Turn
  | 0, _ => Turn.zero
  | fuel + 1, n =>
    if n = 0 then Turn.zero
    else if n % 2 = 0 then (turnOf p q fuel (n / 2)).double
    else (turnOf p q fuel (n / 2)).double.next p q

/-- `floor(n * arccos(p/q) / pi)`. -/
def halfTurns (p q : Int) (n : Nat) : Nat := (turnOf p q (n.log2 + 1) n).halves

/-- Whether `cos(j*pi/n) >= (2*k-1)/(2*amp)`, for `j <= n`: the sample is at least the half-way point below `k`. -/
def reaches (amp j n k : Nat) : Bool := decide (j ≤ halfTurns (2 * k - 1) (2 * amp) n)

/-- The greatest `k <= amp` that `amp * cos(j*pi/n)` reaches, one binary digit of `k` a time. -/
def roundCos (amp j n : Nat) : Nat → Nat → Nat
  | 0, k => k
  | digit + 1, k =>
    if k + 2 ^ digit ≤ amp ∧ reaches amp j n (k + 2 ^ digit) = true then roundCos amp j n digit (k + 2 ^ digit)
    else roundCos amp j n digit k

/-- `round_half_away(amp * sin(pi * x / half))` for `0 <= x < half`, by `sin(pi*x/half) = cos(pi*|half-2x|/(2*half))`. -/
def sineMagnitude (amp x half : Nat) : Nat :=
  roundCos amp (Nat.dist half (2 * x) / Nat.gcd (Nat.dist half (2 * x)) (2 * half))
    (2 * half / Nat.gcd (Nat.dist half (2 * x)) (2 * half)) (amp.log2 + 1) 0

/-- `SINEQ(amp, ph, t, N)` (R126): the angle is `(ph*N + 360*t) / (180*N)` half turns, reduced to one turn. R132, derived from
R126, also says that every sample off 0 and `N/2` is nonzero when `amp * sin(2*pi/N) >= 1/2`; next to the middle of a long odd
cycle the two rules disagree, and R126 is followed (DESIGN CHOICE, log entry 23). -/
def sineq (amp ph t n : Nat) : Sample :=
  if (ph * n + 360 * t) % (360 * n) < 180 * n then
    (sineMagnitude amp ((ph * n + 360 * t) % (360 * n)) (180 * n) : Int)
  else -(sineMagnitude amp ((ph * n + 360 * t) % (360 * n) - 180 * n) (180 * n) : Int)

end Sys2Proof.Machine
end

