-- ==== Sys2Proof/Machine/Synthesis.lean ====
section
/-! DEFINITION. The synthesis primitives (40_signal_primitives.md R120 to R134) and the framing the chunks share
(41_modulator.md R161 to R163). Each is a pure function of the codec state and the configuration. -/

namespace Sys2Proof.Machine

/-- `N(f) = round_half_even(R / f)`, the samples of a cycle at frequency `f` (R122, R123). -/
def samplesPerCycle (rate f : ℚ) : Nat :=
  divRoundHalfEven (rate.num.toNat * f.den) (rate.den * f.num.toNat)

/-- The samples of one cycle of `n` samples: `SINEQ` at `t = 0, 1, ..., n - 1` (R128). -/
def cycleSamples (amp ph n : Nat) : List Sample := (List.range n).map fun t => sineq amp ph t n

/-- `h(N) = ceil(N / 2)`, the samples of the low pulse (R129). -/
def lowPulseLength (n : Nat) : Nat := (n + 1) / 2

/-- `A` of the configured depth (R28, R121). -/
def State.amp (s : State) : Nat := amplitude s.cfg.depth

/-- The frequency of fast and silent cycles: exactly twice the base (R120). -/
def State.fastFrequency (s : State) : ℚ := 2 * s.mod.baseFrequency

/-- `Cycle(f, amp)` in the codec state at the moment of rendering (R128, R133). -/
def State.cycle (s : State) (f : ℚ) (amp : Nat) : List Sample :=
  cycleSamples amp s.mod.phase.toNat (samplesPerCycle s.cfg.rate f)

/-- `LowPulse(f, amp)`: the first half of the cycle by sample index (R129). -/
def State.lowPulse (s : State) (f : ℚ) (amp : Nat) : List Sample :=
  (s.cycle f amp).take (lowPulseLength (samplesPerCycle s.cfg.rate f))

/-- `HighPulse(f, amp)`: the second half of the cycle by sample index (R129). -/
def State.highPulse (s : State) (f : ℚ) (amp : Nat) : List Sample :=
  (s.cycle f amp).drop (lowPulseLength (samplesPerCycle s.cfg.rate f))

/-- `SlowCycle` (R120). -/
def State.slowCycle (s : State) : List Sample := s.cycle s.mod.baseFrequency s.amp

/-- `FastCycle` (R120). -/
def State.fastCycle (s : State) : List Sample := s.cycle s.fastFrequency s.amp

/-- `SilentCycle`: zero amplitude at the fast rate (R120, R121, R134). -/
def State.silentCycle (s : State) : List Sample := s.cycle s.fastFrequency 0

/-- `n` renderings of one cycle after another. -/
def repeated (n : Nat) (cycle : List Sample) : List Sample := (List.replicate n cycle).flatten

/-- `Bit(b)`: one slow cycle for 0, two fast cycles for 1 (R161). -/
def bitTone (slow fast : List Sample) (b : Bool) : List Sample := if b then fast ++ fast else slow

/-- The data bits of a byte, least significant first; 0 for an index of 8 or more (R162). -/
def dataBits (v : Byte) (nbits : Nat) : List Bool := (List.range nbits).map fun i => v.getLsbD i

/-- The bits of a frame: the start bit, the data bits, the parity bit if any, and `abs(stops)` stop bits (R162). -/
def frameBits (v : Byte) (nbits : Nat) (parity : Byte) (stops : Int) : List Bool :=
  false :: (dataBits v nbits ++ parityBit parity (dataBits v nbits) ++ List.replicate stops.natAbs true)

/-- `Frame(v, nbits, parity, stops)` (R162): the tones of its bits, and one extra fast cycle for a negative count. -/
def frame (slow fast : List Sample) (v : Byte) (nbits : Nat) (parity : Byte) (stops : Int) : List Sample :=
  (frameBits v nbits parity stops).flatMap (bitTone slow fast) ++ if stops < 0 then fast else []

/-- The frames of a block of data bytes, in the codec state of `s` (R164, R165). -/
def State.frames (s : State) (bytes : List Byte) (nbits : Nat) (parity : Byte) (stops : Int) : List Sample :=
  bytes.flatMap fun v => frame s.slowCycle s.fastCycle v nbits parity stops

/-- The parity byte 'N' (R85). -/
def parityNone : Byte := 0x4E

/-- The pulse mode 'P' (R91, R171). -/
def pulseMode : Byte := 0x50

end Sys2Proof.Machine
end

