-- ==== Sys2Proof/Machine/Blocks.lean ====
section
/-! DEFINITION. The data blocks 0x100 and 0x104 (41_modulator.md R164, R165). -/

namespace Sys2Proof.Machine

open Host (Outcome)

/-- 0x100: every payload byte framed with 8 data bits, no parity and one stop bit; never raises (R164). -/
def execData (payload : List Byte) (s : State) : Outcome State Fault Refusal :=
  complete (s.emit (s.frames payload 8 parityNone 1))

/-- 0x104: every data byte framed as the three fixed bytes say (R165). -/
def execDfmt (payload : List Byte) (s : State) : Outcome State Fault Refusal :=
  match dfmtOperands payload with
  | none => raise .malformedChunk s
  | some o => complete (s.emit (s.frames o.bytes o.nbits o.parity o.stops))

end Sys2Proof.Machine
end

