-- ==== Sys2Proof/Machine/Codec.lean ====
section
/-! DEFINITION. The codec-state changes 0x113 and 0x115 and the unrecognised identifier (41_modulator.md R169, R172,
R175). -/

namespace Sys2Proof.Machine

open Host (Outcome)

/-- 0x113: `mod.base_frequency <- f`; `InvalidValue` for a NaN, an infinity, either zero or a negative (R169). -/
def execBasefreq (payload : List Byte) (s : State) : Outcome State Fault Refusal :=
  match frequencyOperand payload with
  | none => raise .malformedChunk s
  | some .nan => raise .invalidValue s
  | some (.infinite _) => raise .invalidValue s
  | some (.finite f) => if 0 < f.num then complete (s.setBaseFrequency f) else raise .invalidValue s

/-- 0x115: `mod.phase <- d`, any value, unreduced (R172). -/
def execPhase (payload : List Byte) (s : State) : Outcome State Fault Refusal :=
  match phaseOperand payload with
  | none => raise .malformedChunk s
  | some d => complete (s.setPhase d)

/-- An unrecognised identifier: recorded and skipped; the payload is never read (R97, R175). -/
def execChunk (id : U16) (_payload : List Byte) (s : State) : Outcome State Fault Refusal :=
  complete (s.recordIgnored id)

end Sys2Proof.Machine
end

