-- ==== Sys2Proof/Machine/Security.lean ====
section
/-! DEFINITION. Security cycles, 0x114 (41_modulator.md R170, R171). -/

namespace Sys2Proof.Machine

open Host (Outcome)

/-- The frequency bit `k` selects: fast for 1, slow for 0 (R170). -/
def State.securityFrequency (s : State) (bit : Bool) : ℚ := if bit then s.fastFrequency else s.mod.baseFrequency

/-- Cycle `k` of `count`: the high pulse for a first cycle in mode 'P', else the low pulse for a last cycle in mode
'P', else the full cycle (R170, R171). -/
def State.securityCycle (s : State) (o : SecurityOperands) (k : Nat) (bit : Bool) : List Sample :=
  if k = 0 ∧ o.first = pulseMode then s.highPulse (s.securityFrequency bit) s.amp
  else if k + 1 = o.count ∧ o.last = pulseMode then s.lowPulse (s.securityFrequency bit) s.amp
  else s.cycle (s.securityFrequency bit) s.amp

/-- 0x114: a cycle or pulse per bit (R170). The fixed part is checked before the bit payload (R270). -/
def execSecurity (payload : List Byte) (s : State) : Outcome State Fault Refusal :=
  match securityOperands s.cfg.secCount payload with
  | none => raise .malformedChunk s
  | some o =>
    if bitPayloadFits payload o.count then
      complete (s.emit ((List.range o.count).flatMap fun k => s.securityCycle o k (securityBit payload k)))
    else raise .malformedChunk s

end Sys2Proof.Machine
end

