-- ==== Sys2Proof/Machine/Tones.lean ====
section
/-! DEFINITION. Carrier tones and gaps: 0x110, 0x111, 0x112 and 0x116 (41_modulator.md R166 to R168, R173). -/

namespace Sys2Proof.Machine

open Host (Outcome)

/-- 0x110: that many fast cycles (R166). -/
def execCarrier (payload : List Byte) (s : State) : Outcome State Fault Refusal :=
  match cycleCount payload with
  | none => raise .malformedChunk s
  | some n => complete (s.emit (repeated n s.fastCycle))

/-- 0x111: `n1` fast cycles, the byte 0xAA framed as in 0x100, `n2` fast cycles (R167). -/
def execDummy (payload : List Byte) (s : State) : Outcome State Fault Refusal :=
  match dummyOperands payload with
  | none => raise .malformedChunk s
  | some (n1, n2) =>
    complete (s.emit (repeated n1 s.fastCycle ++ s.frames [0xAA] 8 parityNone 1 ++ repeated n2 s.fastCycle))

/-- 0x112: that many silent cycles (R168). -/
def execGap (payload : List Byte) (s : State) : Outcome State Fault Refusal :=
  match cycleCount payload with
  | none => raise .malformedChunk s
  | some n => complete (s.emit (repeated n s.silentCycle))

/-- The zero samples of 0x116: `round_half_even(sec * R)` when `sec > 0`, else none (R173). -/
def gapSampleCount (rate sec : ℚ) : Nat :=
  if 0 < sec.num then divRoundHalfEven (sec.num.toNat * rate.num.toNat) (sec.den * rate.den) else 0

/-- 0x116: silence of the given duration; `InvalidValue` for a NaN or an infinity (R173). -/
def execFgap (payload : List Byte) (s : State) : Outcome State Fault Refusal :=
  match secondsOperand payload with
  | none => raise .malformedChunk s
  | some .nan => raise .invalidValue s
  | some (.infinite _) => raise .invalidValue s
  | some (.finite sec) => complete (s.emit (List.replicate (gapSampleCount s.cfg.rate sec) 0))

end Sys2Proof.Machine
end

