-- ==== Sys2Proof/Machine/Dispatch.lean ====
section
/-! DEFINITION. The dispatch by identifier (41_modulator.md R160): one meaning per constructor of Instr. -/

namespace Sys2Proof.Machine

def exec (i : Instr) (s : State) : Host.Outcome State Fault Refusal :=
  match i with
  | .data payload => Sys2Proof.Machine.execData payload s
  | .dfmt payload => Sys2Proof.Machine.execDfmt payload s
  | .carrier payload => Sys2Proof.Machine.execCarrier payload s
  | .dummy payload => Sys2Proof.Machine.execDummy payload s
  | .gap payload => Sys2Proof.Machine.execGap payload s
  | .basefreq payload => Sys2Proof.Machine.execBasefreq payload s
  | .security payload => Sys2Proof.Machine.execSecurity payload s
  | .phase payload => Sys2Proof.Machine.execPhase payload s
  | .fgap payload => Sys2Proof.Machine.execFgap payload s
  | .chunk id payload => Sys2Proof.Machine.execChunk id payload s

end Sys2Proof.Machine
end

