-- ==== Sys2Proof/Machine/Step.lean ====
section
/-! DEFINITION. One step of the machine: a MOD step or a DEM step (41_modulator.md R160, 42_demodulator.md R200). -/

namespace Sys2Proof.Machine

/-- The MOD step (R160): `Done` at the end of CS, else the chunk at `mod.cp` runs. -/
def stepMod (s : State) : Host.Outcome State Fault Refusal :=
  match s.fetch with
  | .instr i => exec i s
  | .endOfChunks => .next s.finish
  | .outside => .fault .chunkPointerOutside

/-- One step of the unit whose turn it is (log entry 1). -/
def step (s : State) : Host.Outcome State Fault Refusal :=
  match s.nextUnit with
  | some .mod => stepMod s
  | some .dem => .next s.stepDem
  | none => .fault .unitsStopped

/-- The chunk that the bits of a word of the opcode table encode (R81). -/
def tableChunk (nbits w : Nat) : Option Chunk :=
  match readRecord (tableWordBytes nbits w) with
  | .record c _ => some c
  | .endOfChunks => none
  | .rejected _ => none

/-- Place a chunk at index `k` of a chunk store, keeping every other chunk. -/
def placeChunk (cs : List Chunk) (k : Nat) (c : Chunk) : List Chunk :=
  cs.take k ++ List.replicate (k - cs.length) c ++ c :: cs.drop (k + 1)

/-- `s` with the instruction of a table word where MOD fetches next, MOD running and its turn (log entry 3). -/
def State.withFetchWord (s : State) (nbits w : Nat) : State :=
  match tableChunk nbits w with
  | some c =>
    { s with cs := placeChunk s.cs s.mod.cp c, active := .mod, mod := { s.mod with status := .running } }
  | none => s

end Sys2Proof.Machine
end

