-- ==== Sys2Proof/Machine/Assembler.lean ====
section
/-! DEFINITION. The textual syntax of chunk programs (30_encoding.md R103, R104): one chunk a line, each mnemonic
shorthand for one chunk. Text is a list of characters. -/

namespace Sys2Proof.Machine

/-- A line of a program, with its operands (R103). -/
inductive Line where
  | data (bytes : List Byte)
  | dfmt (nbits parity : Byte) (stops : Int) (bytes : List Byte)
  | carrier (n : U16)
  | dummy (n1 n2 : U16)
  | gap (n : U16)
  | basefreq (f : ℚ)
  | security (lo hi first last : Byte) (bytes : List Byte)
  | phase (d : U16)
  | fgap (sec : ℚ)
  | chunk (id : U16) (bytes : List Byte)
  deriving DecidableEq, Repr

/-- The one chunk a line expands to: its operands in little-endian order (R103, R104). -/
def Line.expand : Line → Chunk
  | .data bytes => { id := 0x0100, payload := bytes }
  | .dfmt nbits parity stops bytes => { id := 0x0104, payload := nbits :: parity :: BitVec.ofInt 8 stops :: bytes }
  | .carrier n => { id := 0x0110, payload := leBytes 2 n.toNat }
  | .dummy n1 n2 => { id := 0x0111, payload := leBytes 2 n1.toNat ++ leBytes 2 n2.toNat }
  | .gap n => { id := 0x0112, payload := leBytes 2 n.toNat }
  | .basefreq f => { id := 0x0113, payload := leBytes 4 (f32Nearest f).toNat }
  | .security lo hi first last bytes => { id := 0x0114, payload := lo :: hi :: first :: last :: bytes }
  | .phase d => { id := 0x0115, payload := leBytes 2 d.toNat }
  | .fgap sec => { id := 0x0116, payload := leBytes 4 (f32Nearest sec).toNat }
  | .chunk id bytes => { id := id, payload := bytes }

/-- The value of a digit character in a base of at most 16. -/
def digitValue (base : Nat) (c : Char) : Option Nat :=
  if '0' ≤ c ∧ c ≤ '9' ∧ c.toNat - 48 < base then some (c.toNat - 48)
  else if 'a' ≤ c ∧ c ≤ 'f' ∧ c.toNat - 87 < base then some (c.toNat - 87)
  else if 'A' ≤ c ∧ c ≤ 'F' ∧ c.toNat - 55 < base then some (c.toNat - 55)
  else none

/-- The number that digits write after the value `acc`; none where a character is no digit of the base. -/
def digits (base : Nat) : Nat → List Char → Option Nat
  | acc, [] => some acc
  | acc, c :: cs =>
    match digitValue base c with
    | some v => digits base (base * acc + v) cs
    | none => none

/-- A nonempty digit string. -/
def natOf (base : Nat) (cs : List Char) : Option Nat := if cs = [] then none else digits base 0 cs

/-- The characters before the first `c` outside quotes, and those after it where there is one. -/
def splitFirst (c : Char) : List Char → List Char × Option (List Char)
  | [] => ([], none)
  | '\'' :: q :: '\'' :: xs => ('\'' :: q :: '\'' :: (splitFirst c xs).1, (splitFirst c xs).2)
  | x :: xs => if x = c then ([], some xs) else (x :: (splitFirst c xs).1, (splitFirst c xs).2)

/-- Put characters at the head of the first piece. -/
def prependPiece (cs : List Char) : List (List Char) → List (List Char)
  | [] => [cs]
  | piece :: pieces => (cs ++ piece) :: pieces

/-- The pieces between the occurrences of `c` outside quotes. -/
def splitAll (c : Char) : List Char → List (List Char)
  | [] => [[]]
  | '\'' :: q :: '\'' :: xs => prependPiece ['\'', q, '\''] (splitAll c xs)
  | x :: xs => if x = c then [] :: splitAll c xs else prependPiece [x] (splitAll c xs)

/-- A decimal number, with or without a fraction. -/
def decimal (cs : List Char) : Option ℚ :=
  match splitFirst '.' cs with
  | (whole, none) => (natOf 10 whole).map fun n => (n : ℚ)
  | (whole, some fraction) =>
    match natOf 10 whole, natOf 10 fraction with
    | some _, some _ => (natOf 10 (whole ++ fraction)).map fun n => mkRat n (10 ^ fraction.length)
    | _, _ => none

/-- An unsigned number: hexadecimal after `0x`, binary after `0b` (the form the examples use; log entry 16), a
character in single quotes, or decimal (R103). -/
def unsignedNumber : List Char → Option ℚ
  | '0' :: 'x' :: cs => (natOf 16 cs).map fun n => (n : ℚ)
  | '0' :: 'b' :: cs => (natOf 2 cs).map fun n => (n : ℚ)
  | ['\'', c, '\''] => some (c.toNat : ℚ)
  | cs => decimal cs

/-- A number, with or without a minus sign. -/
def number : List Char → Option ℚ
  | '-' :: cs => (unsignedNumber cs).map fun v => -v
  | cs => unsignedNumber cs

/-- Drop the blanks at both ends. -/
def trim (cs : List Char) : List Char :=
  ((cs.dropWhile fun c => decide (c = ' ')).reverse.dropWhile fun c => decide (c = ' ')).reverse

/-- The operands after a mnemonic: numbers between commas, none for an empty rest. -/
def operandsOf (cs : List Char) : Option (List ℚ) :=
  if trim cs = [] then some [] else (splitAll ',' cs).mapM fun piece => number (trim piece)

/-- A whole number of `n` bits. -/
def fieldOf (n : Nat) (v : ℚ) : Option (BitVec n) :=
  if v.den = 1 ∧ 0 ≤ v.num ∧ v.num < 2 ^ n then some (BitVec.ofNat n v.num.toNat) else none

/-- A list of bytes. -/
def bytesOf (vs : List ℚ) : Option (List Byte) := vs.mapM (fieldOf 8)

/-- A signed whole number that a signed byte holds. -/
def signedByte (v : ℚ) : Option Int := if v.den = 1 ∧ -128 ≤ v.num ∧ v.num < 128 then some v.num else none

/-- A line from its mnemonic and operands (R103). -/
def lineOf (mnemonic : List Char) (operands : List ℚ) : Option Line :=
  match mnemonic, operands with
  | ['d', 'a', 't', 'a'], bs => (bytesOf bs).map .data
  | ['d', 'f', 'm', 't'], n :: p :: st :: bs => do
    return .dfmt (← fieldOf 8 n) (← fieldOf 8 p) (← signedByte st) (← bytesOf bs)
  | ['c', 'a', 'r', 'r', 'i', 'e', 'r'], [n] => (fieldOf 16 n).map .carrier
  | ['d', 'u', 'm', 'm', 'y'], [n1, n2] => do return .dummy (← fieldOf 16 n1) (← fieldOf 16 n2)
  | ['g', 'a', 'p'], [n] => (fieldOf 16 n).map .gap
  | ['b', 'a', 's', 'e', 'f', 'r', 'e', 'q'], [f] => some (.basefreq f)
  | ['s', 'e', 'c', 'u', 'r', 'i', 't', 'y'], lo :: hi :: first :: last :: bs => do
    return .security (← fieldOf 8 lo) (← fieldOf 8 hi) (← fieldOf 8 first) (← fieldOf 8 last) (← bytesOf bs)
  | ['p', 'h', 'a', 's', 'e'], [d] => (fieldOf 16 d).map .phase
  | ['f', 'g', 'a', 'p'], [sec] => some (.fgap sec)
  | ['c', 'h', 'u', 'n', 'k'], id :: bs => do return .chunk (← fieldOf 16 id) (← bytesOf bs)
  | _, _ => none

/-- One line of text without its comment: nothing, or one chunk's line. -/
def parseLine (text : List Char) : Option (List Line) :=
  if trim text = [] then some []
  else (operandsOf ((splitFirst ' ' (trim text)).2.getD [])).bind fun operands =>
    (lineOf (splitFirst ' ' (trim text)).1 operands).map fun l => [l]

/-- A program: one chunk a line, `;` starts a comment (R103); none where a line does not parse. -/
def parseProgram (text : List Char) : Option (List Line) :=
  ((splitAll '\n' text).mapM fun l => parseLine (splitFirst ';' l).1).map List.flatten

/-- The chunk sequence of a program (R103, R104). -/
def assemble (text : List Char) : Option (List Chunk) := (parseProgram text).map fun ls => ls.map Line.expand

end Sys2Proof.Machine
end

