-- ==== Sys2Proof/Machine/Container.lean ====
section
/-! DEFINITION. The two containers and the stored form of samples, at the boundary of the core (20_memory.md R56, R57,
R59, 30_encoding.md R81, R82, R99 to R102, 60_exceptions.md R261, R262). -/

namespace Sys2Proof.Machine

/-- The ten magic bytes of a UEF container, `UEF File!` and a zero byte (R82). -/
def uefMagic : List Byte := [0x55, 0x45, 0x46, 0x20, 0x46, 0x69, 0x6C, 0x65, 0x21, 0x00]

/-- The version a container is written with, `0x0001` (R82). -/
def uefVersion : Nat := 1

/-- What opening a UEF container gives: the chunks of its whole records, and, where it is refused or cut, the
exception with the index of the record it stands at (R100, R262). -/
structure UefRead where
  chunks : List Chunk
  error : Option (Exception × Nat)
  deriving DecidableEq, Repr

/-- Read records until the bytes end; a cut record is `MalformedChunk` at its index, and the records before it stay
valid (R99, R100). `fuel` bounds the number of records. -/
def readRecords : Nat → Nat → List Byte → UefRead
  | 0, _, _ => { chunks := [], error := none }
  | fuel + 1, index, bytes =>
    match readRecord bytes with
    | .endOfChunks => { chunks := [], error := none }
    | .rejected _ => { chunks := [], error := some (.malformedChunk, index) }
    | .record c rest =>
      { chunks := c :: (readRecords fuel (index + 1) rest).chunks, error := (readRecords fuel (index + 1) rest).error }

/-- Open a UEF container: a wrong magic is `UnsupportedFormat`; the version is not checked (R82). The spec does not say what a
container cut inside its header raises; here one of fewer than ten bytes is `UnsupportedFormat`, and one cut inside its
version field is `MalformedChunk` at record 0 (DESIGN CHOICE, log entry 13). -/
def readUef (bytes : List Byte) : UefRead :=
  if bytes.take 10 ≠ uefMagic then { chunks := [], error := some (.unsupportedFormat, 0) }
  else if bytes.length < 12 then { chunks := [], error := some (.malformedChunk, 0) }
  else readRecords (bytes.length + 1) 0 (bytes.drop 12)

/-- Write a UEF container: magic, version, records; no count field (R82, R100). -/
def writeUef (chunks : List Chunk) : List Byte := uefMagic ++ leBytes 2 uefVersion ++ chunks.flatMap encodeChunk

/-- `DEPTH / 8` (R57, R101). -/
def bytesPerSample : Depth → Nat
  | .d8 => 1
  | .d16 => 2

/-- The number `DEPTH` (R6). -/
def depthBits : Depth → Nat
  | .d8 => 8
  | .d16 => 16

/-- The stored form of one sample: little-endian 16-bit two's complement, or the byte `s + 127` (R12, R56). -/
def storeSample (depth : Depth) (x : Sample) : List Byte :=
  match depth with
  | .d16 => leBytes 2 (BitVec.ofInt 16 x).toNat
  | .d8 => [BitVec.ofInt 8 (x + offset8)]

/-- The stored form of a stream: mono, every sample at the one depth (R56, R57). -/
def storeSamples (depth : Depth) (samples : List Sample) : List Byte := samples.flatMap (storeSample depth)

/-- 16-bit samples from pairs of bytes; an odd trailing byte is dropped (R59). -/
def loadSamples16 : List Byte → List Sample
  | lo :: hi :: rest => (BitVec.ofNat 16 (lo.toNat + 256 * hi.toNat)).toInt :: loadSamples16 rest
  | [_] => []
  | [] => []

/-- Conversion of a stored data region to IB (R59). -/
def loadSamples (depth : Depth) (bytes : List Byte) : List Sample :=
  match depth with
  | .d16 => loadSamples16 bytes
  | .d8 => bytes.map fun b => (b.toNat : Int) - offset8

/-- `RIFF` (R101). -/
def tagRiff : List Byte := [0x52, 0x49, 0x46, 0x46]

/-- `WAVE` (R101). -/
def tagWave : List Byte := [0x57, 0x41, 0x56, 0x45]

/-- `fmt ` (R101). -/
def tagFmt : List Byte := [0x66, 0x6D, 0x74, 0x20]

/-- `data` (R101). -/
def tagData : List Byte := [0x64, 0x61, 0x74, 0x61]

/-- The 44-byte WAV header of a data region of `len` bytes (R101). The spec does not say what becomes of a length that does not
fit its `u32` fields; here each field wraps modulo `2^32` (DESIGN CHOICE, log entry 21). -/
def wavHeader (depth : Depth) (len : Nat) : List Byte :=
  tagRiff ++ leBytes 4 (36 + len) ++ tagWave ++ tagFmt ++ leBytes 4 16 ++ leBytes 2 1 ++ leBytes 2 1
    ++ leBytes 4 rDem ++ leBytes 4 (rDem * bytesPerSample depth) ++ leBytes 2 (bytesPerSample depth)
    ++ leBytes 2 (depthBits depth) ++ tagData ++ leBytes 4 len

/-- Write a WAV container: refused unless `R = 44100` and the depth is 8 or 16 (R102, R262). -/
def writeWav (rate : ℚ) (bits : Nat) (samples : List Sample) : Except Exception (List Byte) :=
  if rate = 44100 then
    if bits = 16 then .ok (wavHeader .d16 (storeSamples .d16 samples).length ++ storeSamples .d16 samples)
    else if bits = 8 then .ok (wavHeader .d8 (storeSamples .d8 samples).length ++ storeSamples .d8 samples)
    else .error .unsupportedFormat
  else .error .unsupportedFormat

/-- A little-endian field of a byte sequence at an offset. -/
def fieldAt (bytes : List Byte) (off n : Nat) : Nat := leNat ((bytes.drop off).take n)

/-- The tags, sizes and the fields that R262 checks: PCM format tag 1, mono, 44100 Hz (R101). The byte rate and the
block align are not checked (log entry 12). -/
def wavHeaderOk (bytes : List Byte) : Bool :=
  decide (44 ≤ bytes.length) && decide (bytes.take 4 = tagRiff) && decide ((bytes.drop 8).take 4 = tagWave)
    && decide ((bytes.drop 12).take 4 = tagFmt) && decide (fieldAt bytes 16 4 = 16) && decide (fieldAt bytes 20 2 = 1)
    && decide (fieldAt bytes 22 2 = 1) && decide (fieldAt bytes 24 4 = rDem) && decide ((bytes.drop 36).take 4 = tagData)

/-- The data region of a WAV container (R101, R102). -/
def wavData (bytes : List Byte) : List Byte := (bytes.drop 44).take (fieldAt bytes 40 4)

/-- Open a WAV container: the depth and the samples, or `UnsupportedFormat` (R101, R102, R262). -/
def readWav (bytes : List Byte) : Except Exception (Depth × List Sample) :=
  if wavHeaderOk bytes then
    if fieldAt bytes 34 2 = 16 then .ok (.d16, loadSamples .d16 (wavData bytes))
    else if fieldAt bytes 34 2 = 8 then .ok (.d8, loadSamples .d8 (wavData bytes))
    else .error .unsupportedFormat
  else .error .unsupportedFormat

end Sys2Proof.Machine
end

