-- ==== Sys2Proof/Machine/Boundary.lean ====
section
/-! DEFINITION. The two boundary operations around the step (41_modulator.md R178, 42_demodulator.md R224, R227,
70_reset_and_hazards.md R290 to R294). -/

namespace Sys2Proof.Machine

/-- Run MOD steps while MOD is `Running`, at most `fuel` of them (R178). -/
def runMod : Nat → State → State
  | 0, s => s
  | fuel + 1, s =>
    if s.modRuns then
      match stepMod s with
      | .next t => runMod fuel t
      | .fault _ => s
      | .refused _ => s
    else s

/-- Run DEM steps until `Done`, at most `fuel` of them (R227). -/
def runDem (ib : List Sample) : Nat → Demodulator → Demodulator
  | 0, d => d
  | fuel + 1, d => if d.runs then runDem ib fuel (demStep ib d) else d

/-- A number of DEM steps that suffices for every buffer of `len` samples (R225): each of the at most `len + 1`
episodes of `Sync` starts later than the one before and takes at most `2 * len + 4` steps in all. -/
def demFuel (len : Nat) : Nat := (len + 2) * (2 * len + 6)

/-- The machine that a `modulate` call starts from: MOD at reset over its inputs (R178, R290). -/
def modStart (chunks : List Chunk) (cfg : Configuration) : State :=
  { State.reset with cfg := cfg, cs := chunks, active := .mod }

/-- The machine that a `demodulate` call starts from: DEM at reset over its buffer (R227, R291). -/
def demStart (samples : List Sample) : State := { State.reset with ib := samples, active := .dem }

/-- The machine when a `modulate` call ends; `n + 1` steps suffice for `n` chunks (R178, R300). -/
def modFinal (chunks : List Chunk) (cfg : Configuration) : State := runMod (chunks.length + 1) (modStart chunks cfg)

/-- What `modulate` returns (R178, R268): the stored stream, the ignored identifiers, and, where MOD faulted, the
exception with its info and the index of the faulting chunk. -/
structure Modulated where
  stream : List Byte
  ignored : List U16
  exception : Option (Exception × Option U16 × Nat)
  deriving DecidableEq, Repr

/-- The exception of a faulted MOD, with its info and index (R25, R260, R268). -/
def State.raisedException (s : State) : Option (Exception × Option U16 × Nat) :=
  match s.mod.status with
  | .faulted code index => some (code, s.faultInfo, index)
  | .running => none
  | .done => none

/-- `modulate(chunks, sample_rate, bit_depth)` (R178). -/
def modulate (chunks : List Chunk) (cfg : Configuration) : Modulated :=
  { stream := storeSamples cfg.depth (modFinal chunks cfg).mod.out
    ignored := (modFinal chunks cfg).mod.ignored
    exception := (modFinal chunks cfg).raisedException }

/-- DEM when a `demodulate` call ends (R227). -/
def demFinal (samples : List Sample) : Demodulator := runDem samples (demFuel samples.length) Demodulator.reset

/-- What `demodulate` returns (R224, R227): the chunks, the span of each, and the identifiers skipped, always none. -/
structure Demodulated where
  chunks : List Chunk
  spans : List (Nat × Nat)
  skipped : List U16
  deriving DecidableEq, Repr

/-- `demodulate(samples)` (R227). -/
def demodulate (samples : List Sample) : Demodulated :=
  { chunks := (demFinal samples).out.map Emitted.chunk
    spans := (demFinal samples).out.map fun e => (e.start, e.stop)
    skipped := [] }

/-- The container is checked first, then the unit is reset, then it steps (R294): `modulate` of a UEF container. A
refused container gives no step; of a cut one the whole records stay valid (R100, R262). The spec does not say whether MOD runs
on those, nor which exception comes first where MOD faults on one of them; here it runs, and the result, with MOD's own
exception if it raised one, comes together with the container's (DESIGN CHOICE, log entry 22). -/
def modulateUef (bytes : List Byte) (cfg : Configuration) : Except Exception (Modulated × Option (Exception × Nat)) :=
  if (readUef bytes).error = some (.unsupportedFormat, 0) then .error .unsupportedFormat
  else .ok (modulate (readUef bytes).chunks cfg, (readUef bytes).error)

/-- `demodulate` of a WAV container (R102, R294). -/
def demodulateWav (bytes : List Byte) : Except Exception Demodulated :=
  match readWav bytes with
  | .ok (_, samples) => .ok (demodulate samples)
  | .error e => .error e

end Sys2Proof.Machine
end

