-- ==== Sys2Proof/Safety.lean ====
section
/-! DEFINITION. What holds of the machine in every run: the invariants of the two units, and what counts as a safe
step. -/

namespace Sys2Proof.Machine

/-- A sample value lies in `[-A, A]` (R12, R33). -/
abbrev inRange (depth : Depth) (x : Sample) : Prop := x.natAbs ≤ amplitude depth

/-- The form of the machine's writable sample memory OS: every sample in range (R33). The five spaces of R50 are finite
sequences, held as lists, so equal memories are equal data without a further canonical form (log entry 18). -/
abbrev Memory.wf (s : State) : Prop := ∀ x ∈ s.mod.out, inRange s.cfg.depth x

/-- The base frequency is positive and exactly the value of some binary32 (R22). -/
def legalFrequency (f : ℚ) : Prop := 0 < f ∧ ∃ w : U32, f32Value w = .finite f

/-- The exceptions that stop MOD (R268). -/
abbrev fatalForMod (e : Exception) : Prop := e = .malformedChunk ∨ e = .invalidValue

/-- What `mod.status` says of `mod.cp` (R24, R25): `Done` at the end of CS, `Faulted` at the faulting chunk. -/
def Modulator.statusAgrees (m : Modulator) (n : Nat) : Prop :=
  match m.status with
  | .running => m.cp ≤ n
  | .done => m.cp = n
  | .faulted code index => index = m.cp ∧ m.cp < n ∧ fatalForMod code

/-- The invariant of MOD (R22 to R27, R33). -/
structure ModInv (s : State) : Prop where
  frequency : legalFrequency s.mod.baseFrequency
  status : s.mod.statusAgrees s.cs.length
  memory : Memory.wf s
  ignored : ∀ id ∈ s.mod.ignored, id ∉ recognisedIds

/-- The chunks DEM emits, each with exactly its fixed fields (R105, R223). -/
abbrev Emitted.legal (e : Emitted) : Prop :=
  (e.chunk.id = 0x0100 ∧ e.chunk.payload ≠ []) ∨ (e.chunk.id = 0x0110 ∧ e.chunk.payload.length = 2)
    ∨ (e.chunk.id = 0x0116 ∧ e.chunk.payload.length = 4)

/-- Whether an entry is a Gap chunk. -/
abbrev Emitted.isGap (e : Emitted) : Prop := e.chunk.id = 0x0116

/-- The spans follow one another from `start` without a hole or an overlap (R224). -/
def tilesFrom : Nat → List Emitted → Prop
  | _, [] => True
  | start, e :: rest => e.start = start ∧ e.start ≤ e.stop ∧ tilesFrom e.stop rest

/-- Where the spans end: 0 for an empty output. -/
def lastStop (out : List Emitted) : Nat := (out.getLast?.map Emitted.stop).getD 0

/-- No two Gap chunks are adjacent (R224). -/
def noAdjacentGaps : List Emitted → Prop
  | e :: f :: rest => ¬(e.isGap ∧ f.isGap) ∧ noAdjacentGaps (f :: rest)
  | [_] => True
  | [] => True

/-- The last chunk of the output is a Data chunk. -/
def lastIsData (out : List Emitted) : Prop := ∃ e, out.getLast? = some e ∧ e.chunk.id = 0x0100

/-- The last chunk of the output, if any, is no Gap. -/
def lastIsNoGap (out : List Emitted) : Prop := ∀ e, out.getLast? = some e → ¬e.isGap

/-- The offset up to which DEM's output accounts for the input (R203, R204). -/
def Demodulator.accounted (d : Demodulator) : Nat := if d.gapPending then d.gapStart else d.boundary

/-- Where a span opened since the anchor begins: at the candidate while nothing is confirmed, else at the boundary. -/
def Demodulator.openAt (d : Demodulator) : Nat := if d.gapPending then d.anchor else d.boundary

/-- The output: its chunks are legal (R223), its spans tile the input so far, no two Gaps are adjacent (R224). -/
structure OutputInv (out : List Emitted) : Prop where
  legal : ∀ e ∈ out, e.legal
  tiles : tilesFrom 0 out
  gaps : noAdjacentGaps out

/-- How the positions stand outside `Sync` and `Done`: past the anchor, inside the buffer (R30, R34, R220). -/
structure EpisodeInv (len : Nat) (d : Demodulator) : Prop where
  anchored : d.anchor < len
  inside : d.pos ≤ len
  pending : d.gapPending = true → d.gapStart ≤ d.anchor ∧ d.anchor ≤ d.pos
  confirmed : d.gapPending = false → d.anchor < d.boundary ∧ d.boundary ≤ d.pos

/-- A carrier run: it began at the open span and ends at the cursor (R210, R212, R216). -/
structure RunInv (d : Demodulator) : Prop where
  start : d.runStart = d.openAt
  stop : d.runEnd = d.pos
  counted : 0 < d.c → d.runStart < d.runEnd

/-- How `StartBit` was entered, and what `dem.data_start` then means (R213, R214, R219). -/
def Demodulator.originAgrees (d : Demodulator) : Prop :=
  match d.origin with
  | .none => False
  | .carrier => d.gapPending = false ∧ d.dataStart = d.boundary
  | .short => d.dataStart = d.openAt
  | .stopBit => d.gapPending = false ∧ lastIsData d.out

/-- What each mode adds (R210 to R221). -/
def Demodulator.modeAgrees (len : Nat) (d : Demodulator) : Prop :=
  match d.mode with
  | .sync => d.gapPending = true ∧ d.gapStart ≤ d.pos ∧ d.pos ≤ len
  | .carrier => EpisodeInv len d ∧ RunInv d
  | .startBit => EpisodeInv len d ∧ d.originAgrees ∧ (d.origin = .stopBit → d.pos = d.boundary)
  | .byte => EpisodeInv len d ∧ d.originAgrees ∧ d.anchor < d.pos ∧ d.bitIdx < 8 ∧ d.acc.toNat < 2 ^ d.bitIdx
  | .stopBit => EpisodeInv len d ∧ d.gapPending = false ∧ d.boundary = d.pos ∧ lastIsData d.out
  | .done => True

/-- The invariant of DEM over a buffer of `len` samples. -/
structure DemInv (len : Nat) (d : Demodulator) : Prop where
  codec : d.baseFrequency = 1200 ∧ d.phase = 180
  output : OutputInv d.out
  status : d.status = .done ↔ d.mode = .done
  ended : d.mode = .done → lastStop d.out = len
  accounts : d.mode ≠ .done → lastStop d.out = d.accounted ∧ lastIsNoGap d.out
  mode : d.modeAgrees len

/-- The invariant of the machine. -/
structure State.Inv (s : State) : Prop where
  mod : ModInv s
  dem : DemInv s.ib.length s.dem

/-- A step is safe when it answers a next state, or stops only because both units have stopped. -/
def safeOutcome : Host.Outcome State Fault Refusal → Prop
  | .next _ => True
  | .fault f => f = .unitsStopped
  | .refused _ => False

end Sys2Proof.Machine
end

