-- ==== Sys2Proof/Certificates/Slice0/Obligations.lean ====
section
/-! DEFINITION. The statements for the provers: what the rules of spec/ say the codec does. Each docstring names the rule
it formalises. -/

namespace Sys2Proof.Statement

open Sys2Proof.Machine

/-- `round_half_away(x)`: the nearest integer, half-way the one farther from zero (R10). -/
noncomputable def roundHalfAway (x : ℝ) : ℤ := if 0 ≤ x then ⌊x + 1 / 2⌋ else -⌊-x + 1 / 2⌋

/-- The chunk completes with `xs` emitted: OS grows by `xs`, the chunk pointer moves on, nothing else changes. -/
def afterEmit (s : State) (xs : List Sample) : State :=
  { s with mod := { s.mod with out := s.mod.out ++ xs, cp := s.mod.cp + 1 } }

/-- The fatal exception is taken: only `mod.status` changes, to `Faulted(e, mod.cp)` (R268). -/
def afterFault (s : State) (e : Exception) : State :=
  { s with mod := { s.mod with status := .faulted e s.mod.cp } }

/-- The `u16` at a payload offset, the byte at the lower address the least significant (R53). -/
def u16At (payload : List Byte) (off : Nat) : Nat := (payload.getD off 0).toNat + 256 * (payload.getD (off + 1) 0).toNat

/-- The bits of the `f32` at payload offset 0 (R53, R88). -/
def f32At0 (payload : List Byte) : U32 := BitVec.ofNat 32 (u16At payload 0 + 65536 * u16At payload 2)

/-- The Gap entry of a span, none for an empty span (R206). -/
def gapEntry (a b : Nat) : List Emitted :=
  if a < b then [{ chunk := gapChunk (b - a), start := a, stop := b }] else []

/-- The Carrier entries of a run (R207). -/
def runEntries (d : Demodulator) : List Emitted :=
  carrierEntries d.runStart d.runEnd (carrierCounts (carrierCycles (d.runEnd - d.runStart)))

/-- The gap that is pending, closed at `e` (R206). -/
def pendingEntry (d : Demodulator) (e : Nat) : List Emitted := if d.gapPending then gapEntry d.gapStart e else []

/-- The canonical configuration at a depth, with either count formula (R6). -/
def canonical (depth : Depth) (f : SecCountFormula) : Configuration := { rate := 44100, depth := depth, secCount := f }

/-- The two bytes of a `u16` payload field, the less significant first (R53). -/
def u16Bytes (n : Nat) : List Byte := [BitVec.ofNat 8 n, BitVec.ofNat 8 (n / 256)]

/-- `A`, by the depth (R6). -/
def fullScale : Depth → Nat
  | .d16 => 32767
  | .d8 => 127

/-- The number a list of digits writes in a base. -/
def digitsValue (base : Nat) (ds : List Nat) : Nat := ds.foldl (fun v d => base * v + d) 0

/-- The character of a digit, in lower case above 9. -/
def digitChar (d : Nat) : Char := if d < 10 then Char.ofNat (48 + d) else Char.ofNat (87 + d)

/-- The one-bits among the `nbits` data bits of a byte (R162). -/
def onesOf (v : Byte) (nbits : Nat) : Nat := ((List.range nbits).filter fun i => v.toNat / 2 ^ i % 2 = 1).length

/-- The samples of a frame, by the samples `S` and `F` of a slow and a fast cycle (R162, R163, R177). -/
def frameCount (S F nbits : Nat) (parity : Byte) (stops : Int) (v : Byte) : Nat :=
  S + (nbits - onesOf v nbits) * S + 2 * onesOf v nbits * F
    + (if parity = 0x45 then (if onesOf v nbits % 2 = 1 then 2 * F else S)
       else if parity = 0x4F then (if onesOf v nbits % 2 = 1 then S else 2 * F) else 0)
    + 2 * stops.natAbs * F + (if stops < 0 then F else 0)

/-- The WAV container of a data region: the header's fields in order (R101). -/
def wavBytes (depth : Depth) (data : List Byte) : List Byte :=
  [0x52, 0x49, 0x46, 0x46] ++ u16Bytes (36 + data.length) ++ u16Bytes ((36 + data.length) / 65536)
    ++ [0x57, 0x41, 0x56, 0x45] ++ [0x66, 0x6D, 0x74, 0x20] ++ [16, 0, 0, 0] ++ [1, 0] ++ [1, 0] ++ [0x44, 0xAC, 0, 0]
    ++ (match depth with
      | .d16 => ([0x88, 0x58, 1, 0] : List Byte) ++ [2, 0] ++ [16, 0]
      | .d8 => ([0x44, 0xAC, 0, 0] : List Byte) ++ [1, 0] ++ [8, 0])
    ++ [0x64, 0x61, 0x74, 0x61] ++ u16Bytes data.length ++ u16Bytes (data.length / 65536) ++ data

/-- The entries of a closed run: the first has the run's span, every later one the empty span at its end (R207). -/
def runOf (start stop : Nat) (counts : List Nat) : List Emitted :=
  List.zipWith (fun n span => { chunk := { id := 0x0110, payload := u16Bytes n }, start := span.1, stop := span.2 })
    counts ((start, stop) :: List.replicate (counts.length - 1) (stop, stop))

/-- Sample `i` lies in a span. -/
def covers (span : Nat × Nat) (i : Nat) : Prop := span.1 ≤ i ∧ i < span.2

end Sys2Proof.Statement

open Sys2Proof Sys2Proof.Machine Sys2Proof.Statement Host

/-! ### Encoding and containers -/

/-- R81, R83, R99: decoding the record of a well-formed instruction gives it back, with the bytes after the record
untouched. -/
def Obligations.DecodeOfEncodeIsIdentity : Prop :=
  ∀ (i : Instr) (rest : List Byte), i.wellFormed = true → decode (encode i ++ rest) = .instr i rest

/-- R81, R97: the bytes that decode to an instruction are its record and what follows, so each record has one meaning. -/
def Obligations.RecordHasOneMeaning : Prop :=
  ∀ (bytes rest : List Byte) (i : Instr), decode bytes = .instr i rest → bytes = encode i ++ rest ∧ i.wellFormed = true

/-- R81, R83 and the records listed in programs P1 to P4: the words of one instruction of each family decode to it. -/
def Obligations.SpecRecordsDecode : Prop :=
  decode [0x00, 0x01, 0x01, 0x00, 0x00, 0x00, 0x41] = .instr (.data [0x41]) []
    ∧ decode [0x10, 0x01, 0x02, 0x00, 0x00, 0x00, 0x14, 0x00] = .instr (.carrier [0x14, 0x00]) []
    ∧ decode [0x13, 0x01, 0x04, 0x00, 0x00, 0x00, 0x00, 0x00, 0x16, 0x44] = .instr (.basefreq [0x00, 0x00, 0x16, 0x44]) []
    ∧ decode [0x14, 0x01, 0x05, 0x00, 0x00, 0x00, 0x03, 0x00, 0x43, 0x43, 0xA0]
      = .instr (.security [0x03, 0x00, 0x43, 0x43, 0xA0]) []
    ∧ decode [0x20, 0x01, 0x03, 0x00, 0x00, 0x00, 0x01, 0x02, 0x03] = .instr (.chunk 0x0120 [0x01, 0x02, 0x03]) []

/-- R82, R99, R100: a container gives back its chunks, and one that ends inside a record gives the whole records before it
and `MalformedChunk` at that record. -/
def Obligations.ContainerKeepsWholeRecords : Prop :=
  ∀ chunks : List Chunk, (∀ c ∈ chunks, payloadFits c.payload = true) →
    readUef (writeUef chunks) = { chunks := chunks, error := none }
      ∧ ∀ (c : Chunk) (n : Nat), payloadFits c.payload = true → 0 < n → n < (encodeChunk c).length →
        readUef (writeUef chunks ++ (encodeChunk c).take n)
          = { chunks := chunks, error := some (.malformedChunk, chunks.length) }

/-- R82, R262: a container whose first ten bytes are not the magic is refused, and MOD runs no step on it. That a container of
fewer than ten bytes is refused so too is the model's choice (log entry 13). -/
def Obligations.WrongMagicIsRefused : Prop :=
  ∀ (bytes : List Byte) (cfg : Configuration),
    bytes.take 10 ≠ [0x55, 0x45, 0x46, 0x20, 0x46, 0x69, 0x6C, 0x65, 0x21, 0x00] →
      (readUef bytes).chunks = [] ∧ modulateUef bytes cfg = .error .unsupportedFormat

/-- R103, R104: what the numbers and the mnemonics of a program read as, that each line is shorthand for one chunk, its
operands little-endian, a signed one modulo 256 and a real one as the nearest binary32, and that programs P2, P3, P4 and P6
assemble to the chunks the spec lists. The model's choices in it: the minus sign, the fraction, the `0b` form, and the value of a
quoted character that is not ASCII, which R103 does not list (log entry 16); the infinity that a `basefreq` or `fgap` operand
past the largest binary32 packs (PRESUMED, log entry 11); and which zero a zero result is (log entry 20). -/
def Obligations.ShorthandsExpandToOneChunk : Prop :=
  ((∀ ds : List Nat, ds ≠ [] → (∀ d ∈ ds, d < 10) → number (ds.map digitChar) = some (digitsValue 10 ds : ℚ))
      ∧ (∀ ds : List Nat, ds ≠ [] → (∀ d ∈ ds, d < 16) →
        number ('0' :: 'x' :: ds.map digitChar) = some (digitsValue 16 ds : ℚ))
      ∧ (∀ c : Char, number ['\'', c, '\''] = some (c.toNat : ℚ))
      ∧ ∀ ws fs : List Nat, ws ≠ [] → fs ≠ [] → (∀ d ∈ ws ++ fs, d < 10) →
        number (ws.map digitChar ++ '.' :: fs.map digitChar) = some ((digitsValue 10 (ws ++ fs) : ℚ) / 10 ^ fs.length)
          ∧ number ('-' :: ws.map digitChar) = some (-(digitsValue 10 ws : ℚ)))
    ∧ ((∀ bs : List Byte, lineOf "data".toList (bs.map fun b => (b.toNat : ℚ)) = some (.data bs))
      ∧ (∀ (n p : Byte) (st : Int) (bs : List Byte), -128 ≤ st → st < 128 →
        lineOf "dfmt".toList ((n.toNat : ℚ) :: (p.toNat : ℚ) :: (st : ℚ) :: bs.map fun b => (b.toNat : ℚ))
          = some (.dfmt n p st bs))
      ∧ (∀ n : U16, lineOf "carrier".toList [(n.toNat : ℚ)] = some (.carrier n))
      ∧ (∀ n m : U16, lineOf "dummy".toList [(n.toNat : ℚ), (m.toNat : ℚ)] = some (.dummy n m))
      ∧ (∀ n : U16, lineOf "gap".toList [(n.toNat : ℚ)] = some (.gap n))
      ∧ (∀ f : ℚ, lineOf "basefreq".toList [f] = some (.basefreq f))
      ∧ (∀ (lo hi first last : Byte) (bs : List Byte), lineOf "security".toList
        ((lo.toNat : ℚ) :: (hi.toNat : ℚ) :: (first.toNat : ℚ) :: (last.toNat : ℚ) :: bs.map fun b => (b.toNat : ℚ))
          = some (.security lo hi first last bs))
      ∧ (∀ n : U16, lineOf "phase".toList [(n.toNat : ℚ)] = some (.phase n))
      ∧ (∀ sec : ℚ, lineOf "fgap".toList [sec] = some (.fgap sec))
      ∧ ∀ (id : U16) (bs : List Byte),
        lineOf "chunk".toList ((id.toNat : ℚ) :: bs.map fun b => (b.toNat : ℚ)) = some (.chunk id bs))
    ∧ ((∀ bs, (Line.data bs).expand = { id := 0x0100, payload := bs })
      ∧ (∀ n p st bs, (Line.dfmt n p st bs).expand
        = { id := 0x0104, payload := n :: p :: BitVec.ofNat 8 (st % 256).toNat :: bs })
      ∧ (∀ n : U16, (Line.carrier n).expand = { id := 0x0110, payload := u16Bytes n.toNat })
      ∧ (∀ n m : U16, (Line.dummy n m).expand = { id := 0x0111, payload := u16Bytes n.toNat ++ u16Bytes m.toNat })
      ∧ (∀ n : U16, (Line.gap n).expand = { id := 0x0112, payload := u16Bytes n.toNat })
      ∧ (∀ f, ∃ p, (Line.basefreq f).expand = { id := 0x0113, payload := p } ∧ p.length = 4 ∧ f32At0 p = f32Nearest f)
      ∧ (∀ lo hi first last bs, (Line.security lo hi first last bs).expand
        = { id := 0x0114, payload := lo :: hi :: first :: last :: bs })
      ∧ (∀ n : U16, (Line.phase n).expand = { id := 0x0115, payload := u16Bytes n.toNat })
      ∧ (∀ sec, ∃ p, (Line.fgap sec).expand = { id := 0x0116, payload := p } ∧ p.length = 4 ∧ f32At0 p = f32Nearest sec)
      ∧ ∀ id bs, (Line.chunk id bs).expand = { id := id, payload := bs })
    ∧ (∀ text ls, parseProgram text = some ls → assemble text = some (ls.map Line.expand))
    ∧ assemble "fgap 0.01 ; silence\ncarrier 19\ndata 0x41".toList
      = some [{ id := 0x0116, payload := [0x0A, 0xD7, 0x23, 0x3C] }, { id := 0x0110, payload := [0x13, 0x00] },
        { id := 0x0100, payload := [0x41] }]
    ∧ assemble "basefreq 600\ncarrier 4\nphase 90\ncarrier 1\nbasefreq 1200\nphase 180\ncarrier 1".toList
      = some [{ id := 0x0113, payload := [0x00, 0x00, 0x16, 0x44] }, { id := 0x0110, payload := [0x04, 0x00] },
        { id := 0x0115, payload := [0x5A, 0x00] }, { id := 0x0110, payload := [0x01, 0x00] },
        { id := 0x0113, payload := [0x00, 0x00, 0x96, 0x44] }, { id := 0x0115, payload := [0xB4, 0x00] },
        { id := 0x0110, payload := [0x01, 0x00] }]
    ∧ assemble ("carrier 20\ndfmt 7, 'E', -1, 0x41\nchunk 0x0120, 1, 2, 3\n"
        ++ "security 3, 0, 'C', 'C', 0b10100000\ndummy 1, 2").toList
      = some [{ id := 0x0110, payload := [0x14, 0x00] }, { id := 0x0104, payload := [0x07, 0x45, 0xFF, 0x41] },
        { id := 0x0120, payload := [0x01, 0x02, 0x03] }, { id := 0x0114, payload := [0x03, 0x00, 0x43, 0x43, 0xA0] },
        { id := 0x0111, payload := [0x01, 0x00, 0x02, 0x00] }]
    ∧ assemble "carrier 30\ndata 1, 2\ngap 10\ncarrier 30\ndata 3".toList
      = some [{ id := 0x0110, payload := [0x1E, 0x00] }, { id := 0x0100, payload := [0x01, 0x02] },
        { id := 0x0112, payload := [0x0A, 0x00] }, { id := 0x0110, payload := [0x1E, 0x00] },
        { id := 0x0100, payload := [0x03] }]

/-- R56, R59: the stored form of a sample is its 16-bit two's complement, the less significant byte first, or the byte of its
value plus 127; a stored region is loaded as `sext_16` of each pair of bytes, an odd last byte dropped, or as each byte less
127; and a stream of in-range samples, stored and loaded, is the same stream. -/
def Obligations.StoredFormRoundTrip : Prop :=
  (∀ (depth : Depth) (xs : List Sample), storeSamples depth xs = xs.flatMap (storeSample depth))
    ∧ (∀ x : Sample, inRange .d16 x → ∃ lo hi : Byte, storeSample .d16 x = [lo, hi]
      ∧ ((lo.toNat + 256 * hi.toNat : Nat) : Int) = if x < 0 then x + 65536 else x)
    ∧ (∀ x : Sample, inRange .d8 x → ∃ b : Byte, storeSample .d8 x = [b] ∧ (b.toNat : Int) = x + 127)
    ∧ (∀ bytes : List Byte, (loadSamples .d16 bytes).length = bytes.length / 2
      ∧ ∀ k, 2 * k + 1 < bytes.length → (loadSamples .d16 bytes)[k]?
        = some (if (bytes.getD (2 * k + 1) 0).toNat < 128
            then ((bytes.getD (2 * k) 0).toNat : Int) + 256 * (bytes.getD (2 * k + 1) 0).toNat
            else ((bytes.getD (2 * k) 0).toNat : Int) + 256 * (bytes.getD (2 * k + 1) 0).toNat - 65536))
    ∧ (∀ bytes : List Byte, loadSamples .d8 bytes = bytes.map fun b => (b.toNat : Int) - 127)
    ∧ ∀ (depth : Depth) (xs : List Sample), (∀ x ∈ xs, inRange depth x) → loadSamples depth (storeSamples depth xs) = xs

/-- R101, R102, R262: WAV is written at 44100 Hz and 8 or 16 bits only, with the header R101 lays out, and what is written is
read back; a header that is not PCM format tag 1, mono, 44100 Hz with 8 or 16 bits is refused, and DEM runs no step on it.
The bound on the length keeps the `u32` length fields from overflowing (past it the model wraps them, log entry 21). That bytes too
short for a header, or with other tags or chunks in it, are refused as well, with these fields read at R101's offsets and a
missing byte as 0, is the model's choice (log entry 12). -/
def Obligations.WavRoundTrip : Prop :=
  (∀ (depth : Depth) (xs : List Sample), (∀ x ∈ xs, inRange depth x) → 36 + (storeSamples depth xs).length < 2 ^ 32 →
      writeWav 44100 (match depth with | .d16 => 16 | .d8 => 8) xs = .ok (wavBytes depth (storeSamples depth xs))
        ∧ readWav (wavBytes depth (storeSamples depth xs)) = .ok (depth, xs)
        ∧ demodulateWav (wavBytes depth (storeSamples depth xs)) = .ok (demodulate xs))
    ∧ (∀ (xs : List Sample) (rate : ℚ) (bits : Nat), rate ≠ 44100 ∨ (bits ≠ 8 ∧ bits ≠ 16) →
      writeWav rate bits xs = .error .unsupportedFormat)
    ∧ ∀ bytes : List Byte,
      u16At bytes 20 ≠ 1 ∨ u16At bytes 22 ≠ 1 ∨ u16At bytes 24 + 65536 * u16At bytes 26 ≠ 44100
          ∨ (u16At bytes 34 ≠ 8 ∧ u16At bytes 34 ≠ 16) →
        readWav bytes = .error .unsupportedFormat ∧ demodulateWav bytes = .error .unsupportedFormat

/-! ### The step -/

/-- R51, R160, R200: while MOD runs and has the turn (or DEM has stopped), a step decodes the chunk at `mod.cp` and is `exec` of
the instruction at that state, with nothing around it; while DEM is not `Done` and has the turn (or MOD has stopped), a step
is the DEM step, every field but DEM's registers unchanged. The choice of the unit is the model's (log entry 1). -/
def Obligations.StepRunsDecodedChunk : Prop :=
  (∀ (s : State) (i : Instr) (c : Chunk), s.mod.status = .running → (s.active = .mod ∨ s.dem.mode = .done) →
      s.cs[s.mod.cp]? = some c → decodeChunk c = i → step s = exec i s)
    ∧ ∀ s : State, s.dem.mode ≠ .done → (s.active = .dem ∨ s.mod.status ≠ .running) →
      step s = .next { s with dem := demStep s.ib s.dem }

/-- R25, R160: at the end of CS a step makes MOD `Done` and changes nothing else. The choice of the unit is the model's (log
entry 1). -/
def Obligations.RunEndsAtLastChunk : Prop :=
  ∀ s : State, s.mod.status = .running → (s.active = .mod ∨ s.dem.mode = .done) → s.mod.cp = s.cs.length →
    step s = .next { s with mod := { s.mod with status := .done } }

/-- R25, R222, R300: `Done` and `Faulted` are permanent, and so is DEM's `Done`; when both units have stopped no step
exists, and the model answers the fault `unitsStopped` (the model's choice, log entry 4). -/
def Obligations.StoppedUnitsStayStopped : Prop :=
  (∀ s t : State, step s = .next t → (s.mod.status ≠ .running → t.mod = s.mod) ∧ (s.dem.mode = .done → t.dem = s.dem))
    ∧ ∀ s : State, s.mod.status ≠ .running → s.dem.mode = .done → step s = .fault .unitsStopped

/-- R20, R37, R67: a step moves one unit and leaves the other's registers, the inputs and the configuration as they are. That
one step is a step of one unit, and that it leaves `active`, the turn, as it is, are the model's choice (log entry 1). -/
def Obligations.StepMovesOneUnit : Prop :=
  ∀ s t : State, step s = .next t →
    t.cfg = s.cfg ∧ t.cs = s.cs ∧ t.ib = s.ib ∧ t.active = s.active ∧ (t.mod = s.mod ∨ t.dem = s.dem)

/-- R20, R176: what a MOD step makes of MOD's registers depends on the chunk store, the configuration and those registers
alone, and not on DEM or its buffer. -/
def Obligations.ModDependsOnItsOwnStateOnly : Prop :=
  ∀ s u t : State, u.cfg = s.cfg → u.cs = s.cs → u.mod = s.mod → stepMod s = .next t →
    ∃ v, stepMod u = .next v ∧ v.mod = t.mod

/-- R292: every register at its reset value. -/
def Obligations.ResetTable : Prop :=
  State.reset.mod = { baseFrequency := 1200, phase := 180, cp := 0, status := .running, out := [], ignored := [] }
    ∧ State.reset.dem =
      { baseFrequency := 1200, phase := 180, pos := 0, mode := .sync, c := 0, runStart := 0, runEnd := 0,
        origin := .none, dataStart := 0, acc := 0, bitIdx := 0, anchor := 0, boundary := 0, gapPending := true,
        gapStart := 0, out := [], status := .running }

/-! ### The chunk rules: each completes, with every register it does not name unchanged, or takes its exception -/

/-- R84, R164: every payload byte is framed with 8 data bits, no parity and one stop bit; nothing is raised. In the canonical
configuration a byte with `k` one-bits takes `369 - k` samples. -/
def Obligations.DataFramesEveryByte : Prop :=
  (∀ (payload : List Byte) (s : State),
      exec (.data payload) s = .next (afterEmit s (payload.flatMap fun v => frame s.slowCycle s.fastCycle v 8 0x4E 1)))
    ∧ ∀ (v : Byte) (depth : Depth) (f : SecCountFormula),
      let s := modStart [] (canonical depth f)
      (frame s.slowCycle s.fastCycle v 8 0x4E 1).length = 369 - (dataBits v 8).count true

/-- R165: the three fixed bytes configure the frames of the rest; fewer than three raise `MalformedChunk`. -/
def Obligations.DfmtFramesAsConfigured : Prop :=
  (∀ (nbits parity stops : Byte) (bytes : List Byte) (s : State), exec (.dfmt (nbits :: parity :: stops :: bytes)) s
      = .next (afterEmit s (bytes.flatMap fun v => frame s.slowCycle s.fastCycle v nbits.toNat parity stops.toInt)))
    ∧ ∀ (payload : List Byte) (s : State), payload.length < 3 →
      exec (.dfmt payload) s = .next (afterFault s .malformedChunk)

/-- R166: `cycle_count` fast cycles. -/
def Obligations.CarrierEmitsFastCycles : Prop :=
  ∀ (payload : List Byte) (s : State),
    (2 ≤ payload.length → exec (.carrier payload) s
        = .next (afterEmit s (List.replicate (u16At payload 0) s.fastCycle).flatten))
      ∧ (payload.length < 2 → exec (.carrier payload) s = .next (afterFault s .malformedChunk))

/-- R167: `n1` fast cycles, the byte 0xAA framed as in 0x100, `n2` fast cycles. -/
def Obligations.DummyEmitsFramedByteBetweenTones : Prop :=
  ∀ (payload : List Byte) (s : State),
    (4 ≤ payload.length → exec (.dummy payload) s
        = .next (afterEmit s ((List.replicate (u16At payload 0) s.fastCycle).flatten
          ++ frame s.slowCycle s.fastCycle 0xAA 8 0x4E 1 ++ (List.replicate (u16At payload 2) s.fastCycle).flatten)))
      ∧ (payload.length < 4 → exec (.dummy payload) s = .next (afterFault s .malformedChunk))

/-- R168: `cycle_count` silent cycles, that is as many zero samples as that many cycles at the fast rate have, whatever the
phase. -/
def Obligations.GapEmitsSilenceAtFastRate : Prop :=
  ∀ (payload : List Byte) (s : State),
    (2 ≤ payload.length → exec (.gap payload) s = .next (afterEmit s (List.replicate
        (u16At payload 0 * samplesPerCycle s.cfg.rate (2 * s.mod.baseFrequency)) 0)))
      ∧ (payload.length < 2 → exec (.gap payload) s = .next (afterFault s .malformedChunk))

/-- R169, R263: a finite positive frequency is written; a NaN, an infinity, a zero or a negative raises `InvalidValue`, a
short payload `MalformedChunk`. -/
def Obligations.BasefreqWritesOrRaises : Prop :=
  ∀ (payload : List Byte) (s : State),
    (∀ f : ℚ, 4 ≤ payload.length → f32Value (f32At0 payload) = .finite f → 0 < f → exec (.basefreq payload) s
        = .next { s with mod := { s.mod with baseFrequency := f, cp := s.mod.cp + 1 } })
      ∧ (4 ≤ payload.length → (∀ f : ℚ, f32Value (f32At0 payload) = .finite f → f ≤ 0) →
        exec (.basefreq payload) s = .next (afterFault s .invalidValue))
      ∧ (payload.length < 4 → exec (.basefreq payload) s = .next (afterFault s .malformedChunk))

/-- R91, R92, R170, R171: a slow or fast cycle per bit, most significant first, with the half pulses of mode 'P' at the ends;
`MalformedChunk` where the fixed part or the bit payload is short. -/
def Obligations.SecurityRendersABitEach : Prop :=
  ∀ (lo hi first last : Byte) (bits : List Byte) (s : State),
    let count := match s.cfg.secCount with
      | .intent => lo.toNat + 256 * hi.toNat
      | .source => hi.toNat * 2 ^ (8 + lo.toNat)
    let f := fun k : Nat => if (bits.getD (k / 8) 0).getLsbD (7 - k % 8) then 2 * s.mod.baseFrequency else s.mod.baseFrequency
    ((count + 7) / 8 ≤ bits.length → exec (.security (lo :: hi :: first :: last :: bits)) s
        = .next (afterEmit s ((List.range count).flatMap fun k =>
          if k = 0 ∧ first = 0x50 then s.highPulse (f k) s.amp
          else if k + 1 = count ∧ last = 0x50 then s.lowPulse (f k) s.amp
          else s.cycle (f k) s.amp)))
      ∧ (bits.length < (count + 7) / 8 →
        exec (.security (lo :: hi :: first :: last :: bits)) s = .next (afterFault s .malformedChunk))
      ∧ ∀ payload : List Byte, payload.length < 4 →
        exec (.security payload) s = .next (afterFault s .malformedChunk)

/-- R172: the phase is the `u16` of the payload, whatever its value. -/
def Obligations.PhaseIsWrittenUnreduced : Prop :=
  ∀ (payload : List Byte) (s : State),
    (2 ≤ payload.length → exec (.phase payload) s
        = .next { s with mod := { s.mod with phase := BitVec.ofNat 16 (u16At payload 0), cp := s.mod.cp + 1 } })
      ∧ (payload.length < 2 → exec (.phase payload) s = .next (afterFault s .malformedChunk))

/-- R173, R263: a positive duration emits the nearest whole number of zero samples, the even one half-way; a zero or negative
one emits nothing; a NaN or an infinity raises `InvalidValue`. -/
def Obligations.FgapEmitsRoundedSilence : Prop :=
  ∀ (payload : List Byte) (s : State), 0 < s.cfg.rate →
    (∀ sec : ℚ, 4 ≤ payload.length → f32Value (f32At0 payload) = .finite sec →
        (sec ≤ 0 → exec (.fgap payload) s = .next (afterEmit s []))
          ∧ (0 < sec → ∃ k : Nat, exec (.fgap payload) s = .next (afterEmit s (List.replicate k 0))
            ∧ |sec * s.cfg.rate - k| ≤ 1 / 2 ∧ (|sec * s.cfg.rate - k| = 1 / 2 → k % 2 = 0)))
      ∧ (4 ≤ payload.length → (∀ sec : ℚ, f32Value (f32At0 payload) ≠ .finite sec) →
        exec (.fgap payload) s = .next (afterFault s .invalidValue))
      ∧ (payload.length < 4 → exec (.fgap payload) s = .next (afterFault s .malformedChunk))

/-- R97, R175: an unrecognised identifier is recorded and skipped, whatever its payload. -/
def Obligations.UnrecognisedIsRecorded : Prop :=
  ∀ (id : U16) (payload : List Byte) (s : State), id ∉ recognisedIds →
    decodeChunk { id := id, payload := payload } = .chunk id payload
      ∧ exec (.chunk id payload) s
        = .next { s with mod := { s.mod with ignored := s.mod.ignored ++ [id], cp := s.mod.cp + 1 } }

/-- R174, R268: every chunk either completes, moving the chunk pointer by one and leaving the status, or takes a fatal
exception and has no other effect at all. -/
def Obligations.ChunksAreAtomic : Prop :=
  ∀ (i : Instr) (s : State),
    (∃ t, exec i s = .next t ∧ t.mod.cp = s.mod.cp + 1 ∧ t.mod.status = s.mod.status)
      ∨ ∃ e, fatalForMod e ∧ exec i s = .next (afterFault s e)

/-- R21 to R27, R51, R55, R58: what a chunk may change. The inputs, the configuration and DEM stay; OS and the ignored list
only grow, so every sample already there reads as before; only 0x113 writes the base frequency, only 0x115 the phase,
and only an unrecognised chunk the ignored list. That `active`, the turn, stays is the model's choice (log entry 1). -/
def Obligations.ChunkFrame : Prop :=
  ∀ (i : Instr) (s t : State), exec i s = .next t →
    t.cfg = s.cfg ∧ t.cs = s.cs ∧ t.ib = s.ib ∧ t.active = s.active ∧ t.dem = s.dem
      ∧ (∀ k, k < s.mod.out.length → t.mod.out[k]? = s.mod.out[k]?) ∧ s.mod.ignored <+: t.mod.ignored
      ∧ ((∀ p, i ≠ .basefreq p) → t.mod.baseFrequency = s.mod.baseFrequency)
      ∧ ((∀ p, i ≠ .phase p) → t.mod.phase = s.mod.phase)
      ∧ ((∀ id p, i ≠ .chunk id p) → t.mod.ignored = s.mod.ignored)
      ∧ ((∃ p, i = .basefreq p) ∨ (∃ p, i = .phase p) ∨ (∃ id p, i = .chunk id p) → t.mod.out = s.mod.out)

/-! ### Framing and synthesis -/

/-- R162, R163: a start bit 0, the data bits least significant first (0 for an index of 8 or more), the parity bit by the
number of ones, `abs(stops)` stop bits of 1, and one extra fast cycle for a negative count. -/
def Obligations.FrameLayout : Prop :=
  ∀ (slow fast : List Sample) (v : Byte) (nbits : Nat) (parity : Byte) (stops : Int),
    let bits := (List.range nbits).map fun i => decide (v.toNat / 2 ^ i % 2 = 1)
    let odd := decide (bits.count true % 2 = 1)
    let tone := fun b : Bool => if b then fast ++ fast else slow
    frame slow fast v nbits parity stops
      = slow ++ bits.flatMap tone
        ++ (if parity = 0x45 then tone odd else if parity = 0x4F then tone (!odd) else [])
        ++ (List.replicate stops.natAbs (fast ++ fast)).flatten ++ (if stops < 0 then fast else [])

/-- R161 to R177: the number of samples each chunk adds, with `S` and `F` the samples of a slow and a fast cycle. R177 lists
0x100, 0x110 to 0x113, 0x115, 0x116 and the unrecognised chunk; 0x104 and 0x114 follow from R162, R165, R170 and R171. A chunk
that raises adds none. -/
def Obligations.SampleCounts : Prop :=
  ∀ s : State,
    let S := samplesPerCycle s.cfg.rate s.mod.baseFrequency
    let F := samplesPerCycle s.cfg.rate (2 * s.mod.baseFrequency)
    let byteCount := fun v : Byte => S + (8 - onesOf v 8) * S + 2 * onesOf v 8 * F + 2 * F
    (bitTone s.slowCycle s.fastCycle false).length = S ∧ (bitTone s.slowCycle s.fastCycle true).length = 2 * F
      ∧ (∀ payload t, exec (.data payload) s = .next t →
        t.mod.out.length = s.mod.out.length + (payload.map byteCount).sum)
      ∧ (∀ nbits parity stops bytes t, exec (.dfmt (nbits :: parity :: stops :: bytes)) s = .next t →
        t.mod.out.length = s.mod.out.length + (bytes.map (frameCount S F nbits.toNat parity stops.toInt)).sum)
      ∧ (∀ payload t, 2 ≤ payload.length → exec (.carrier payload) s = .next t →
        t.mod.out.length = s.mod.out.length + u16At payload 0 * F)
      ∧ (∀ payload t, 2 ≤ payload.length → exec (.gap payload) s = .next t →
        t.mod.out.length = s.mod.out.length + u16At payload 0 * F)
      ∧ (∀ payload t, 4 ≤ payload.length → exec (.dummy payload) s = .next t →
        t.mod.out.length = s.mod.out.length + (u16At payload 0 + u16At payload 2) * F + byteCount 0xAA)
      ∧ (∀ lo hi first last bits t,
        let count := match s.cfg.secCount with
          | .intent => lo.toNat + 256 * hi.toNat
          | .source => hi.toNat * 2 ^ (8 + lo.toNat)
        let N := fun k : Nat => if (bits.getD (k / 8) 0).getLsbD (7 - k % 8) then F else S
        (count + 7) / 8 ≤ bits.length → exec (.security (lo :: hi :: first :: last :: bits)) s = .next t →
          t.mod.out.length = s.mod.out.length + ((List.range count).map fun k =>
            if k = 0 ∧ first = 0x50 then N k / 2 else if k + 1 = count ∧ last = 0x50 then (N k + 1) / 2 else N k).sum)
      ∧ (∀ payload sec t, 4 ≤ payload.length → f32Value (f32At0 payload) = .finite sec → exec (.fgap payload) s = .next t →
        ∃ k : Nat, t.mod.out.length = s.mod.out.length + k ∧ (sec ≤ 0 → k = 0)
          ∧ (0 < sec → 0 < s.cfg.rate →
            |sec * s.cfg.rate - k| ≤ 1 / 2 ∧ (|sec * s.cfg.rate - k| = 1 / 2 → k % 2 = 0)))
      ∧ (∀ payload t, exec (.basefreq payload) s = .next t ∨ exec (.phase payload) s = .next t →
        t.mod.out.length = s.mod.out.length)
      ∧ (∀ id payload t, exec (.chunk id payload) s = .next t → t.mod.out.length = s.mod.out.length)
      ∧ ∀ i t, exec i s = .next t → t.mod.status ≠ s.mod.status → t.mod.out.length = s.mod.out.length

/-- R122: `N(f)` is the integer nearest `R / f`, the even one half-way. -/
def Obligations.CycleLengthIsNearestEven : Prop :=
  ∀ rate f : ℚ, 0 < rate → 0 < f →
    |rate / f - samplesPerCycle rate f| ≤ 1 / 2
      ∧ (|rate / f - samplesPerCycle rate f| = 1 / 2 → samplesPerCycle rate f % 2 = 0)

/-- R123: a cycle has no samples exactly when `R / f <= 1/2`. -/
def Obligations.CycleIsEmptyAtHighFrequency : Prop :=
  ∀ rate f : ℚ, 0 < rate → 0 < f → (samplesPerCycle rate f = 0 ↔ rate / f ≤ 1 / 2)

/-- R126: `SINEQ` is the exact real sine, scaled and rounded half away from zero, at every amplitude, phase and sample of every
cycle, and within the amplitude. -/
def Obligations.SineIsRoundedExactly : Prop :=
  ∀ amp ph t n : Nat, 0 < n →
    sineq amp ph t n = roundHalfAway (amp * Real.sin (ph * Real.pi / 180 + 2 * Real.pi * t / n))
      ∧ -(amp : Int) ≤ sineq amp ph t n ∧ sineq amp ph t n ≤ amp

/-- R127: the exact points of `SINEQ`: 0 at whole half turns, the full amplitude at a quarter turn, and at 30 degrees half the
amplitude, which for an odd amplitude is rounded away from zero; negated half a turn later. -/
def Obligations.SineExactPoints : Prop :=
  ∀ amp n : Nat, 0 < n →
    sineq amp 0 0 n = 0 ∧ sineq amp 180 0 n = 0 ∧ sineq amp 90 0 n = amp ∧ sineq amp 270 0 n = -(amp : Int)
      ∧ sineq amp 30 0 n = ((amp + 1) / 2 : Nat) ∧ sineq amp 210 0 n = -(((amp + 1) / 2 : Nat) : Int)

/-- R131: the canonical cycles at 44100 Hz, sample for sample. -/
def Obligations.CanonicalCycles : Prop :=
  samplesPerCycle 44100 2400 = 18 ∧ samplesPerCycle 44100 1200 = 37 ∧ lowPulseLength 18 = 9 ∧ lowPulseLength 37 = 19
    ∧ cycleSamples 32767 180 18 = [0, -11207, -21062, -28377, -32269, -32269, -28377, -21062, -11207, 0, 11207, 21062, 28377,
      32269, 32269, 28377, 21062, 11207]
    ∧ cycleSamples 32767 180 37 = [0, -5538, -10916, -15980, -20585, -24597, -27902, -30404, -32032, -32737, -32502, -31331,
      -29259, -26345, -22673, -18349, -13497, -8257, -2779, 2779, 8257, 13497, 18349, 22673, 26345, 29259, 31331, 32502,
      32737, 32032, 30404, 27902, 24597, 20585, 15980, 10916, 5538]
    ∧ cycleSamples 127 180 18 = [0, -43, -82, -110, -125, -125, -110, -82, -43, 0, 43, 82, 110, 125, 125, 110, 82, 43]
    ∧ cycleSamples 127 180 37 = [0, -21, -42, -62, -80, -95, -108, -118, -124, -127, -126, -121, -113, -102, -88, -71, -52,
      -32, -11, 11, 32, 52, 71, 88, 102, 113, 121, 126, 127, 124, 118, 108, 95, 80, 62, 42, 21]

/-- R132: at phase 180 a cycle is 0 at its start and at its half-way sample, not positive before it and not negative after.
(R132's sentence on nonzero samples disagrees with R126, which the model follows: log entry 23.) -/
def Obligations.CycleBeginsWithNegativeHalf : Prop :=
  ∀ amp n t : Nat, t < n →
    (t = 0 → sineq amp 180 t n = 0) ∧ (2 * t = n → sineq amp 180 t n = 0)
      ∧ (0 < t → 2 * t < n → sineq amp 180 t n ≤ 0) ∧ (n < 2 * t → 0 ≤ sineq amp 180 t n)

/-- R23, D45: the phase has a period of 360 degrees, so storing it unreduced changes no sample. -/
def Obligations.PhaseIsPeriodic : Prop :=
  ∀ amp ph t n : Nat, sineq amp (ph + 360) t n = sineq amp ph t n

/-- R120, R124, R128 to R130, R133: in every state a cycle is `SINEQ` at the state's own phase, at samples 0 to `N(f) - 1`, all
zero for amplitude 0; slow, fast and silent cycles are the cycles at the base frequency and at twice it, at full scale and at
amplitude 0; and the two pulses are the two halves of the cycle, the low one holding the middle sample of an odd cycle. -/
def Obligations.PulsesSplitTheCycle : Prop :=
  (∀ (s : State) (f : ℚ) (amp : Nat),
      let n := samplesPerCycle s.cfg.rate f
      s.cycle f amp = (List.range n).map (fun t => sineq amp s.mod.phase.toNat t n)
        ∧ s.cycle f 0 = List.replicate n 0
        ∧ s.lowPulse f amp ++ s.highPulse f amp = s.cycle f amp
        ∧ (s.lowPulse f amp).length = (n + 1) / 2 ∧ (s.highPulse f amp).length = n / 2)
    ∧ ∀ s : State,
      s.slowCycle = s.cycle s.mod.baseFrequency (fullScale s.cfg.depth)
        ∧ s.fastCycle = s.cycle (2 * s.mod.baseFrequency) (fullScale s.cfg.depth)
        ∧ s.silentCycle = s.cycle (2 * s.mod.baseFrequency) 0

/-- R88: the value of a binary32, by its sign, exponent and fraction. -/
def Obligations.Binary32Value : Prop :=
  ∀ w : U32,
    let e : Nat := w.toNat / 2 ^ 23 % 256
    let m : Nat := w.toNat % 2 ^ 23
    let sign : ℚ := if 2 ^ 31 ≤ w.toNat then -1 else 1
    (0 < e → e < 255 → f32Value w = .finite (sign * (2 : ℚ) ^ ((e : ℤ) - 127) * (1 + m / 2 ^ 23)))
      ∧ (e = 0 → f32Value w = .finite (sign * (2 : ℚ) ^ (-126 : ℤ) * (m / 2 ^ 23)))
      ∧ (e = 255 → m = 0 → f32Value w = .infinite (decide (2 ^ 31 ≤ w.toNat)))
      ∧ (e = 255 → m ≠ 0 → f32Value w = .nan)

/-- R10, R208: the rounding of a ratio, or of any rational, is finite exactly below `2^128 - 2^103` in magnitude; then no binary32
is nearer, and one that is as near leaves the result the even one. Past that bound the model packs infinity (PRESUMED, log
entry 11), and which zero it gives is its choice too (log entry 20). -/
def Obligations.NearestBinary32 : Prop :=
  (∀ num den : Nat, 0 < den →
      ((∃ v, f32Value (f32NearestRatio num den) = .finite v) ↔ num < (2 ^ 128 - 2 ^ 103) * den)
        ∧ ∀ (v u : ℚ) (w : U32), f32Value (f32NearestRatio num den) = .finite v → f32Value w = .finite u →
          |(num : ℚ) / den - v| ≤ |(num : ℚ) / den - u|
            ∧ (|(num : ℚ) / den - v| = |(num : ℚ) / den - u| → u ≠ v → (f32NearestRatio num den).toNat % 2 = 0))
    ∧ ∀ x : ℚ,
      ((∃ v, f32Value (f32Nearest x) = .finite v) ↔ |x| < 2 ^ 128 - 2 ^ 103)
        ∧ ∀ (v u : ℚ) (w : U32), f32Value (f32Nearest x) = .finite v → f32Value w = .finite u →
          |x - v| ≤ |x - u| ∧ (|x - v| = |x - u| → u ≠ v → (f32Nearest x).toNat % 2 = 0)

/-! ### Classification -/

/-- R140, R141, R267: a pulse is its leading zeros, the longest run of one sign, and a zero that ends it; the end of the stream
is seen exactly when only zeros remain. -/
def Obligations.PulseShape : Prop :=
  ∀ (ib : List Sample) (p : Nat),
    (readPulse ib p = .endOfStream ↔ ∀ x ∈ ib.drop p, x = 0)
      ∧ ∀ (g : Int) (len next : Nat), readPulse ib p = .pulse g len next →
        ∃ (z : Nat) (run rest : List Sample), ib.drop p = List.replicate z 0 ++ run ++ rest ∧ run ≠ []
          ∧ (g = 1 ∨ g = -1) ∧ (∀ x ∈ run, x.sign = g) ∧ (∀ x, rest.head? = some x → x.sign ≠ g)
          ∧ len = z + run.length + (if rest.head? = some 0 then 1 else 0) ∧ next = p + len

/-- R142, R143, R146, R264 to R266: the end of the stream comes first, then phase, ratio and frequency, in that order. -/
def Obligations.ChecksRunInOrder : Prop :=
  ∀ (ib : List Sample) (p f : Nat),
    (readPulse ib p = .endOfStream → classifyCycle ib p f = .endOfStream)
      ∧ ∀ (g1 : Int) (l1 p1 : Nat), readPulse ib p = .pulse g1 l1 p1 →
        (readPulse ib p1 = .endOfStream → classifyCycle ib p f = .endOfStream)
          ∧ ∀ (g2 : Int) (l2 p2 : Nat), readPulse ib p1 = .pulse g2 l2 p2 →
            (g1 = g2 → classifyCycle ib p f = .phaseMismatch)
              ∧ (g1 ≠ g2 → 5 * max l1 l2 > 8 * min l1 l2 → classifyCycle ib p f = .ratioMismatch)
              ∧ (g1 ≠ g2 → ¬5 * max l1 l2 > 8 * min l1 l2 →
                (|(44100 : Int) - f * (l1 + l2)| > 500 * (l1 + l2) → classifyCycle ib p f = .frequencyMismatch)
                  ∧ (¬|(44100 : Int) - f * (l1 + l2)| > 500 * (l1 + l2) → classifyCycle ib p f = .ok l1 l2 p2))

/-- R147, R150: of the cycles that pass the phase and ratio checks, exactly those of 16 to 23 samples are fast and exactly
those of 26 to 63 are slow. -/
def Obligations.AcceptanceWindows : Prop :=
  ∀ (g1 g2 : Int) (l1 l2 next : Nat), g1 ≠ g2 → 5 * max l1 l2 ≤ 8 * min l1 l2 →
    (checkCycle 2400 g1 l1 g2 l2 next = .ok l1 l2 next ↔ 16 ≤ l1 + l2 ∧ l1 + l2 ≤ 23)
      ∧ (checkCycle 1200 g1 l1 g2 l2 next = .ok l1 l2 next ↔ 26 ≤ l1 + l2 ∧ l1 + l2 ≤ 63)

/-- R148: at most one of the two readings of a bit can accept, so reading the two fast cycles first gives the same result. -/
def Obligations.BitReadingOrderIsIndifferent : Prop :=
  ∀ (ib : List Sample) (p : Nat),
    readBit ib p = match readStop ib p with
      | .stop next => .bit true next
      | .fail => match classifyCycle ib p 1200 with
        | .ok _ _ next => .bit false next
        | .endOfStream => .endOfStream
        | _ => .fail
      | .endOfStream => match classifyCycle ib p 1200 with
        | .ok _ _ next => .bit false next
        | _ => .endOfStream

/-! ### The steps of DEM: registers not named are unchanged -/

/-- R202, R210: `Sync` accepts a negative pulse whose length is in the set, leaving the cursor there, else moves one sample. -/
def Obligations.SyncStep : Prop :=
  ∀ (ib : List Sample) (d : Demodulator), d.mode = .sync →
    (∀ (g : Int) (len next : Nat), readPulse ib d.pos = .pulse g len next → demStep ib d
        = if g = -1 ∧ len ∈ [8, 9, 10, 16, 17, 18, 19] then
            { d with anchor := d.pos, runStart := d.pos, runEnd := d.pos, c := 0, mode := .carrier }
          else { d with pos := d.pos + 1 })
      ∧ (readPulse ib d.pos = .endOfStream → demStep ib d = d.endOfStream ib.length)

/-- R203, R212, R213, R214: a fast cycle extends the run; a mismatch closes a run of 19 or more as a Carrier chunk, and leaves
a shorter one to the next byte. -/
def Obligations.CarrierStep : Prop :=
  ∀ (ib : List Sample) (d : Demodulator), d.mode = .carrier →
    (∀ l1 l2 next : Nat, classifyCycle ib d.pos 2400 = .ok l1 l2 next →
        demStep ib d = { d with c := d.c + 1, pos := next, runEnd := next })
      ∧ (classifyCycle ib d.pos 2400 = .endOfStream → demStep ib d = d.endOfStream ib.length)
      ∧ ((∀ l1 l2 next : Nat, classifyCycle ib d.pos 2400 ≠ .ok l1 l2 next) → classifyCycle ib d.pos 2400 ≠ .endOfStream →
        demStep ib d = if 19 ≤ d.c then
            { d with out := d.out ++ pendingEntry d d.runStart ++ runEntries d, gapPending := false, boundary := d.runEnd,
                     origin := .carrier, dataStart := d.runEnd, mode := .startBit }
          else { d with origin := .short, dataStart := d.runStart, mode := .startBit })

/-- R215, R216: a slow cycle starts a byte; else, after a stop bit, a fast cycle starts a run; else the resume rule. -/
def Obligations.StartBitStep : Prop :=
  ∀ (ib : List Sample) (d : Demodulator), d.mode = .startBit →
    (∀ l1 l2 next : Nat, classifyCycle ib d.pos 1200 = .ok l1 l2 next →
        demStep ib d = { d with pos := next, acc := 0, bitIdx := 0, mode := .byte })
      ∧ (classifyCycle ib d.pos 1200 = .endOfStream → demStep ib d = d.endOfStream ib.length)
      ∧ ((∀ l1 l2 next : Nat, classifyCycle ib d.pos 1200 ≠ .ok l1 l2 next) → classifyCycle ib d.pos 1200 ≠ .endOfStream →
        (d.origin = .stopBit →
          (∀ l1 l2 next : Nat, classifyCycle ib d.pos 2400 = .ok l1 l2 next →
              demStep ib d = { d with runStart := d.pos, pos := next, runEnd := next, c := 1, mode := .carrier })
            ∧ (classifyCycle ib d.pos 2400 = .endOfStream → demStep ib d = d.endOfStream ib.length)
            ∧ ((∀ l1 l2 next : Nat, classifyCycle ib d.pos 2400 ≠ .ok l1 l2 next) →
              classifyCycle ib d.pos 2400 ≠ .endOfStream → demStep ib d = d.failure))
          ∧ (d.origin = .carrier ∨ d.origin = .short → demStep ib d = d.failure))

/-- R203, R209, R217, R218: a bit joins the accumulator; the eighth closes the pending gap, puts the byte into the last Data
chunk or a new one, and confirms the cursor. -/
def Obligations.ByteStep : Prop :=
  ∀ (ib : List Sample) (d : Demodulator), d.mode = .byte →
    (∀ (b : Bool) (next : Nat), readBit ib d.pos = .bit b next →
        let v := d.acc + (if b then 1#8 <<< d.bitIdx else 0#8)
        let taken := { d with acc := v, bitIdx := d.bitIdx + 1, pos := next }
        (d.bitIdx ≠ 7 → demStep ib d = taken)
          ∧ (d.bitIdx = 7 → ∃ out : List Emitted,
            demStep ib d = { taken with out := out, gapPending := false, boundary := next, mode := .stopBit }
              ∧ let before := d.out ++ pendingEntry d d.dataStart
                ((∀ e, before.getLast? = some e → e.chunk.id = 0x0100 → out = before.dropLast
                    ++ [{ chunk := { id := 0x0100, payload := e.chunk.payload ++ [v] }, start := e.start, stop := next }])
                  ∧ ((∀ e, before.getLast? = some e → e.chunk.id ≠ 0x0100) → out = before
                    ++ [{ chunk := { id := 0x0100, payload := [v] }, start := d.dataStart, stop := next }]))))
      ∧ (readBit ib d.pos = .fail → demStep ib d = d.failure)
      ∧ (readBit ib d.pos = .endOfStream → demStep ib d = d.endOfStream ib.length)

/-- R203, R219: a stop bit is confirmed and extends the span of the last chunk. The premise that a last chunk exists holds in
every state that meets the invariant. -/
def Obligations.StopBitStep : Prop :=
  ∀ (ib : List Sample) (d : Demodulator) (e : Emitted), d.mode = .stopBit → d.out.getLast? = some e →
    (∀ next : Nat, readStop ib d.pos = .stop next → demStep ib d
        = { d with out := d.out.dropLast ++ [{ e with stop := next }], pos := next, boundary := next, origin := .stopBit,
                   mode := .startBit })
      ∧ (readStop ib d.pos = .fail → demStep ib d = d.failure)
      ∧ (readStop ib d.pos = .endOfStream → demStep ib d = d.endOfStream ib.length)

/-- R220: the resume rule. -/
def Obligations.FailureResumes : Prop :=
  ∀ d : Demodulator,
    (d.gapPending = true → d.failure
        = { d with pos := d.anchor + 1, c := 0, acc := 0, bitIdx := 0, origin := .none, mode := .sync })
      ∧ (d.gapPending = false → d.failure
        = { d with pos := d.boundary, gapStart := d.boundary, gapPending := true, c := 0, acc := 0, bitIdx := 0,
                   origin := .none, mode := .sync })

/-- R221: at the end of the stream a run of 19 or more cycles is closed, the boundary moving to its end, and the rest, from the
pending gap or the last confirmed boundary on, becomes one Gap if it is not empty. -/
def Obligations.EndOfStreamCloses : Prop :=
  ∀ (d : Demodulator) (len : Nat),
    (d.mode = .carrier → 19 ≤ d.c → d.endOfStream len
        = { d with out := d.out ++ pendingEntry d d.runStart ++ runEntries d ++ gapEntry d.runEnd len
                   boundary := d.runEnd, gapStart := d.runEnd, gapPending := false, mode := .done, status := .done })
      ∧ (d.mode ≠ .carrier ∨ d.c < 19 →
        let tail := if d.gapPending then d.gapStart else d.boundary
        d.endOfStream len
          = { d with out := d.out ++ gapEntry tail len, gapStart := tail, gapPending := false, mode := .done,
                     status := .done })

/-- R105, R207: a run is closed as Carrier chunks. With `cyc` the nearest whole number of cycles at 2400 Hz, there is one chunk of
`cyc`, or full ones of 65535 first and a nonzero rest; each payload is the `u16` of its count, the less significant byte
first; the first has the run's span, every later one the empty span at its end. The counts add up to `cyc`. -/
def Obligations.CarrierSplitKeepsTheTotal : Prop :=
  (∀ cycles : Nat, (carrierCounts cycles).sum = cycles ∧ (∀ n ∈ carrierCounts cycles, n ≤ 65535)
      ∧ (cycles ≤ 65535 → carrierCounts cycles = [cycles]) ∧ (0 < cycles → ∀ n ∈ carrierCounts cycles, 0 < n))
    ∧ ∀ d : Demodulator, ∃ (cyc : Nat) (counts : List Nat),
      |((d.runEnd - d.runStart : Nat) : ℚ) * 2400 / 44100 - cyc| < 1 / 2
        ∧ counts = (if cyc ≤ 65535 then [cyc]
          else List.replicate (cyc / 65535) 65535 ++ if cyc % 65535 = 0 then [] else [cyc % 65535])
        ∧ runEntries d = runOf d.runStart d.runEnd counts
        ∧ d.emitCarrier = { d with out := d.out ++ runOf d.runStart d.runEnd counts }

/-- R207, R208: a run of `span` samples counts the nearest whole number of cycles at 2400 Hz; a gap of `k` samples is one 0x116
chunk whose `f32` is the nearest to `k / 2 / 44100` seconds, the even one half-way. The bound on `k` keeps the quotient
finite. -/
def Obligations.GapAndCarrierMeasures : Prop :=
  (∀ span : Nat, |(span : ℚ) * 2400 / 44100 - carrierCycles span| < 1 / 2)
    ∧ ∀ k : Nat, k < 2 ^ 100 → ∃ p : List Byte, gapChunk k = { id := 0x0116, payload := p } ∧ p.length = 4
      ∧ ∃ v : ℚ, f32Value (f32At0 p) = .finite v
        ∧ ∀ (w : U32) (u : ℚ), f32Value w = .finite u → |(k : ℚ) / 2 / 44100 - v| ≤ |(k : ℚ) / 2 / 44100 - u|
          ∧ (|(k : ℚ) / 2 / 44100 - v| = |(k : ℚ) / 2 / 44100 - u| → u ≠ v → (f32At0 p).toNat % 2 = 0)

/-- R29, R205: a DEM step never writes its codec copy and never changes an entry of its output but the last, and that one only
when it is Data: its start stays, a byte is appended to its payload or the payload stays, and its span then ends at the
cursor. The premise about `StopBit` holds in every state that meets the invariant. -/
def Obligations.OutputOnlyGrows : Prop :=
  ∀ (ib : List Sample) (d : Demodulator),
    (demStep ib d).baseFrequency = d.baseFrequency ∧ (demStep ib d).phase = d.phase
      ∧ (d.mode ≠ .stopBit ∨ lastIsData d.out →
        d.out <+: (demStep ib d).out
          ∨ ∃ (e : Emitted) (added : List Byte), d.out.getLast? = some e ∧ e.chunk.id = 0x0100 ∧ added.length ≤ 1
            ∧ (demStep ib d).out = d.out.dropLast
              ++ [{ chunk := { id := 0x0100, payload := e.chunk.payload ++ added }, start := e.start,
                    stop := (demStep ib d).pos }])

/-! ### Invariants and whole runs -/

/-- The invariant of the machine: legal codec values, a chunk pointer and status that agree, samples in range, and DEM's output
tiling the input up to what its registers account for (R22, R24, R25, R33, R203, R204, R223, R224). Every step keeps it. -/
def Obligations.EveryStepKeepsTheInvariant : Prop :=
  ∀ s t : State, s.Inv → step s = .next t → t.Inv

/-- R290, R291: the invariant holds at reset, and where the two boundary operations start, over any inputs. What reset places
in the inputs and the configuration is the model's choice (log entry 2). -/
def Obligations.ResetMeetsTheInvariant : Prop :=
  State.reset.Inv ∧ (∀ chunks cfg, (modStart chunks cfg).Inv) ∧ ∀ samples, (demStart samples).Inv

/-- From a state that meets the invariant no run stops but by both units having stopped: MOD never fetches outside CS, and
nothing is refused (R97, R267, R300). The fault is the model's choice (log entry 4). -/
def Obligations.RunsAreSafe : Prop :=
  ∀ (s : State) (k : Nat), s.Inv → safeOutcome (Core.run Sys2Proof.core k s)

/-- R178, R260, R268, R300: MOD stops after at most `n + 1` steps for `n` chunks, and `modulate` returns the stored stream, the
ignored identifiers, and, when MOD faulted, the exception with the identifier and the index of the faulting chunk: then the
stream and the identifiers are those of the chunks before that one, which raise nothing. -/
def Obligations.ModulateStops : Prop :=
  ∀ (chunks : List Chunk) (cfg : Configuration),
    let final := (modFinal chunks cfg).mod
    final.status ≠ .running
      ∧ (modulate chunks cfg).stream = storeSamples cfg.depth final.out ∧ (modulate chunks cfg).ignored = final.ignored
      ∧ (final.status = .done → (modulate chunks cfg).exception = none)
      ∧ ∀ (e : Exception) (k : Nat), final.status = .faulted e k →
        fatalForMod e ∧ ∃ c : Chunk, chunks[k]? = some c ∧ (modulate chunks cfg).exception = some (e, some c.id, k)
          ∧ modulate (chunks.take k) cfg
            = { stream := (modulate chunks cfg).stream, ignored := (modulate chunks cfg).ignored, exception := none }

/-- R225: for every input, DEM reaches `Done`; the number of steps that suffices is the model's own bound. -/
def Obligations.DemodulateStops : Prop :=
  ∀ ib : List Sample, (demFinal ib).mode = .done

/-- R224: the spans of what `demodulate` returns follow one another from 0 to `L`, so every sample belongs to exactly one
chunk; no two Gaps are adjacent, and the skipped set is empty. -/
def Obligations.SpansTileTheInput : Prop :=
  ∀ ib : List Sample,
    (demodulate ib).skipped = [] ∧ (demodulate ib).spans.length = (demodulate ib).chunks.length
      ∧ tilesFrom 0 (demFinal ib).out ∧ lastStop (demFinal ib).out = ib.length ∧ noAdjacentGaps (demFinal ib).out
      ∧ ∀ i, i < ib.length → ∃! k : Nat, ∃ span, (demodulate ib).spans[k]? = some span ∧ covers span i

/-- R226 (a): every byte, framed by MOD at reset, stored and converted back, is demodulated to exactly that byte, at both
depths. -/
def Obligations.BitFramingLaw : Prop :=
  ∀ (b : Byte) (depth : Depth) (f : SecCountFormula),
    let stream := (modulate [{ id := 0x0100, payload := [b] }] (canonical depth f)).stream
    demodulate (loadSamples depth stream)
      = { chunks := [{ id := 0x0100, payload := [b] }], spans := [(0, 369 - (dataBits b 8).count true)], skipped := [] }

/-- R213, R226 (b): a carrier of 19 or more fast cycles and a byte come out as one Carrier chunk, counted by R207, and one Data
chunk, which begins where the run ends. -/
def Obligations.CarrierThenByteIsRecovered : Prop :=
  ∀ (n : Nat) (b : Byte) (f : SecCountFormula), 19 ≤ n → n ≤ 65535 →
    let chunks := [{ id := 0x0110, payload := u16Bytes n }, { id := 0x0100, payload := [b] }]
    let out := (modFinal chunks (canonical .d16 f)).mod.out
    demodulate out
      = { chunks := [{ id := 0x0110, payload := u16Bytes (carrierCycles (18 * n + 1)) }, { id := 0x0100, payload := [b] }],
          spans := [(0, 18 * n + 1), (18 * n + 1, 18 * n + 369 - (dataBits b 8).count true)], skipped := [] }
end

