-- ==== Sys2Proof/Laws/Bytes.lean ====
section
/-! SUPPORT. The byte-order helpers: little-endian bytes and the number they assemble to (R11, R53). -/

namespace Sys2Proof

@[simp] theorem leBytes_length (n v : Nat) : (leBytes n v).length = n := by
  induction n generalizing v with
  | zero => rfl
  | succ n ih => simp [leBytes, ih]

theorem leNat_leBytes (n v : Nat) : leNat (leBytes n v) = v % 256 ^ n := by
  induction n generalizing v with
  | zero => simp [leBytes, leNat, Nat.mod_one]
  | succ n ih =>
    rw [leBytes, leNat, ih, BitVec.toNat_ofNat, show (256 : Nat) ^ (n + 1) = 256 * 256 ^ n by rw [Nat.pow_succ, Nat.mul_comm],
      Nat.mod_mul]

theorem leNat_lt (bs : List Byte) : leNat bs < 256 ^ bs.length := by
  induction bs with
  | nil => simp [leNat]
  | cons b bs ih =>
    have := b.isLt
    simp only [leNat, List.length_cons, Nat.pow_succ]
    omega

theorem leBytes_leNat (bs : List Byte) : leBytes bs.length (leNat bs) = bs := by
  induction bs with
  | nil => rfl
  | cons b bs ih =>
    have hb : b.toNat < 256 := b.isLt
    rw [List.length_cons, leBytes, leNat]
    have h1 : (b.toNat + 256 * leNat bs) / 256 = leNat bs := by omega
    have h2 : BitVec.ofNat 8 (b.toNat + 256 * leNat bs) = b := by
      apply BitVec.eq_of_toNat_eq
      rw [BitVec.toNat_ofNat]
      omega
    rw [h1, h2, ih]

@[simp] theorem leNat_two (lo hi : Byte) : leNat [lo, hi] = lo.toNat + 256 * hi.toNat := by simp [leNat]

/-- An instruction is the chunk of its identifier and payload. -/
@[simp] theorem toChunk_id (i : Instr) : i.toChunk.id = i.identifier := rfl

@[simp] theorem toChunk_payload (i : Instr) : i.toChunk.payload = i.payload := rfl

/-- Decoding keeps the identifier and the payload: no bit of a chunk is dropped. -/
theorem decodeChunk_toChunk (c : Chunk) : (decodeChunk c).toChunk = c := by
  obtain ⟨id, payload⟩ := c
  simp only [decodeChunk]
  split_ifs with h1 h2 h3 h4 h5 h6 h7 h8 h9 <;> simp_all [Instr.toChunk, Instr.identifier, Instr.payload]

end Sys2Proof
end

