-- ==== Sys2Proof/Laws/Pulses.lean ====
section
/-! SUPPORT. What the classification primitives can answer: a pulse, a cycle, a bit or a stop bit lies inside the buffer
and moves the cursor forward. -/

namespace Sys2Proof.Machine

theorem prefixLength_le (p : Sample → Bool) (xs : List Sample) : prefixLength p xs ≤ xs.length := by
  induction xs with
  | nil => exact Nat.le_refl _
  | cons x xs ih =>
    unfold prefixLength
    split_ifs
    · simpa using ih
    · exact Nat.zero_le _

theorem prefixLength_pos {p : Sample → Bool} {xs : List Sample} {x : Sample} (h : xs[0]? = some x) (hx : p x = true) :
    0 < prefixLength p xs := by
  cases xs with
  | nil => cases h
  | cons y ys =>
    cases h
    simp [prefixLength, hx]

/-- The element after the longest prefix, if any, does not satisfy the test. -/
theorem prefixLength_stops {p : Sample → Bool} {xs : List Sample} {x : Sample}
    (h : xs[prefixLength p xs]? = some x) : p x = false := by
  induction xs with
  | nil => cases h
  | cons y ys ih =>
    unfold prefixLength at h
    split_ifs at h with hy
    · exact ih (by simpa using h)
    · cases h
      simpa using hy

theorem consumeSign_lt {ib : List Sample} {g : Int} {p : Nat} {x : Sample} (h : ib[p]? = some x) (hx : x.sign = g) :
    p < consumeSign ib g p := by
  have : 0 < prefixLength (fun x => decide (x.sign = g)) (ib.drop p) :=
    prefixLength_pos (x := x) (by simpa using h) (by simpa using hx)
  unfold consumeSign
  omega

theorem consumeSign_le {ib : List Sample} {g : Int} {p : Nat} (h : p ≤ ib.length) : consumeSign ib g p ≤ ib.length := by
  have := prefixLength_le (fun x => decide (x.sign = g)) (ib.drop p)
  rw [List.length_drop] at this
  unfold consumeSign
  omega

theorem consumeTerminator_ge (ib : List Sample) (p : Nat) : p ≤ consumeTerminator ib p := by
  unfold consumeTerminator
  split_ifs <;> omega

theorem consumeTerminator_le {ib : List Sample} {p : Nat} (h : p ≤ ib.length) :
    consumeTerminator ib p ≤ ib.length := by
  unfold consumeTerminator
  split_ifs with h0
  · have := (List.getElem?_eq_some_iff.mp h0).1
    omega
  · exact h

/-- A pulse has a sign, begins inside the buffer, and its length is the distance the cursor moves (R140). -/
theorem readPulse_pulse {ib : List Sample} {p len next : Nat} {g : Int} (h : readPulse ib p = .pulse g len next) :
    g ≠ 0 ∧ p < ib.length ∧ p < next ∧ next ≤ ib.length ∧ len = next - p := by
  unfold readPulse at h
  cases hx : ib[skipZeros ib p]? with
  | none => simp [hx] at h
  | some x =>
    simp only [hx, PulseResult.pulse.injEq] at h
    obtain ⟨rfl, rfl, rfl⟩ := h
    have hz : x ≠ 0 := by
      have : (ib.drop p)[prefixLength (fun x => decide (x = 0)) (ib.drop p)]? = some x := by
        rw [List.getElem?_drop]; exact hx
      simpa using prefixLength_stops this
    have hlt := (List.getElem?_eq_some_iff.mp hx).1
    have hge : p ≤ skipZeros ib p := by unfold skipZeros; omega
    have h1 := consumeSign_lt hx rfl
    have h2 := consumeTerminator_ge ib (consumeSign ib x.sign (skipZeros ib p))
    have h3 := consumeTerminator_le (consumeSign_le (g := x.sign) hlt.le)
    exact ⟨by simpa using hz, by omega, by omega, h3, rfl⟩

/-- A cycle that is accepted: two pulses of opposite signs, one after the other (R142). -/
theorem classifyCycle_ok {ib : List Sample} {p f l1 l2 next : Nat} (h : classifyCycle ib p f = .ok l1 l2 next) :
    0 < l1 ∧ 0 < l2 ∧ next = p + l1 + l2 ∧ next ≤ ib.length ∧ 5 * max l1 l2 ≤ 8 * min l1 l2
      ∧ ((rDem : Int) - f * ((l1 + l2 : Nat) : Int)).natAbs ≤ tol * (l1 + l2) := by
  unfold classifyCycle at h
  cases h1 : readPulse ib p with
  | endOfStream => simp [h1] at h
  | pulse g1 m1 p1 =>
    cases h2 : readPulse ib p1 with
    | endOfStream => simp [h1, h2] at h
    | pulse g2 m2 p2 =>
      simp only [h1, h2, checkCycle] at h
      split_ifs at h with hg hr hf
      simp only [CycleResult.ok.injEq] at h
      obtain ⟨rfl, rfl, rfl⟩ := h
      have a := readPulse_pulse h1
      have b := readPulse_pulse h2
      simp only [ratioTooLarge, decide_eq_true_eq, not_lt, gt_iff_lt] at hr
      simp only [frequencyOff, decide_eq_true_eq, not_lt, gt_iff_lt] at hf
      exact ⟨by omega, by omega, by omega, b.2.2.2.1, hr, hf⟩

/-- A stop bit moves the cursor forward inside the buffer (R148). -/
theorem readStop_stop {ib : List Sample} {p next : Nat} (h : readStop ib p = .stop next) :
    p < next ∧ next ≤ ib.length := by
  unfold readStop at h
  cases h1 : classifyCycle ib p fFast with
  | ok l1 l2 q =>
    simp only [h1] at h
    cases h2 : classifyCycle ib q fFast with
    | ok m1 m2 r =>
      simp only [h2, StopResult.stop.injEq] at h
      have a := classifyCycle_ok h1
      have b := classifyCycle_ok h2
      omega
    | phaseMismatch => simp [h2] at h
    | ratioMismatch => simp [h2] at h
    | frequencyMismatch => simp [h2] at h
    | endOfStream => simp [h2] at h
  | phaseMismatch => simp [h1] at h
  | ratioMismatch => simp [h1] at h
  | frequencyMismatch => simp [h1] at h
  | endOfStream => simp [h1] at h

theorem readOne_bit {ib : List Sample} {p next : Nat} {b : Bool} (h : readOne ib p = .bit b next) :
    p < next ∧ next ≤ ib.length := by
  unfold readOne at h
  cases hs : readStop ib p with
  | stop n =>
    simp only [hs, BitResult.bit.injEq] at h
    obtain ⟨-, rfl⟩ := h
    exact readStop_stop hs
  | fail => simp [hs] at h
  | endOfStream => simp [hs] at h

/-- A data bit moves the cursor forward inside the buffer (R148). -/
theorem readBit_bit {ib : List Sample} {p next : Nat} {b : Bool} (h : readBit ib p = .bit b next) :
    p < next ∧ next ≤ ib.length := by
  unfold readBit at h
  cases hc : classifyCycle ib p fSlow with
  | ok l1 l2 q =>
    simp only [hc, BitResult.bit.injEq] at h
    have a := classifyCycle_ok hc
    omega
  | phaseMismatch => exact readOne_bit (by simpa [hc] using h)
  | ratioMismatch => exact readOne_bit (by simpa [hc] using h)
  | frequencyMismatch => exact readOne_bit (by simpa [hc] using h)
  | endOfStream => simp [hc] at h

end Sys2Proof.Machine
end

