-- ==== Sys2Proof/Laws/State.lean ====
section
/-! SUPPORT. What each update of the state does to each field: one lemma per field per update, all by rfl, so that no
proof unfolds a record update. -/

namespace Sys2Proof.Machine


/-! `State.emit` -/

@[simp] theorem State.emit_cfg (s : State) (xs : List Sample) : (s.emit xs).cfg = s.cfg := rfl
@[simp] theorem State.emit_cs (s : State) (xs : List Sample) : (s.emit xs).cs = s.cs := rfl
@[simp] theorem State.emit_ib (s : State) (xs : List Sample) : (s.emit xs).ib = s.ib := rfl
@[simp] theorem State.emit_active (s : State) (xs : List Sample) : (s.emit xs).active = s.active := rfl
@[simp] theorem State.emit_dem (s : State) (xs : List Sample) : (s.emit xs).dem = s.dem := rfl
@[simp] theorem State.emit_baseFrequency (s : State) (xs : List Sample) :
    (s.emit xs).mod.baseFrequency = s.mod.baseFrequency := rfl
@[simp] theorem State.emit_phase (s : State) (xs : List Sample) : (s.emit xs).mod.phase = s.mod.phase := rfl
@[simp] theorem State.emit_cp (s : State) (xs : List Sample) : (s.emit xs).mod.cp = s.mod.cp := rfl
@[simp] theorem State.emit_status (s : State) (xs : List Sample) : (s.emit xs).mod.status = s.mod.status := rfl
@[simp] theorem State.emit_out (s : State) (xs : List Sample) : (s.emit xs).mod.out = s.mod.out ++ xs := rfl
@[simp] theorem State.emit_ignored (s : State) (xs : List Sample) : (s.emit xs).mod.ignored = s.mod.ignored := rfl

/-! `State.setBaseFrequency` -/

@[simp] theorem State.setBaseFrequency_cfg (s : State) (f : ℚ) : (s.setBaseFrequency f).cfg = s.cfg := rfl
@[simp] theorem State.setBaseFrequency_cs (s : State) (f : ℚ) : (s.setBaseFrequency f).cs = s.cs := rfl
@[simp] theorem State.setBaseFrequency_ib (s : State) (f : ℚ) : (s.setBaseFrequency f).ib = s.ib := rfl
@[simp] theorem State.setBaseFrequency_active (s : State) (f : ℚ) : (s.setBaseFrequency f).active = s.active := rfl
@[simp] theorem State.setBaseFrequency_dem (s : State) (f : ℚ) : (s.setBaseFrequency f).dem = s.dem := rfl
@[simp] theorem State.setBaseFrequency_baseFrequency (s : State) (f : ℚ) :
    (s.setBaseFrequency f).mod.baseFrequency = f := rfl
@[simp] theorem State.setBaseFrequency_phase (s : State) (f : ℚ) :
    (s.setBaseFrequency f).mod.phase = s.mod.phase := rfl
@[simp] theorem State.setBaseFrequency_cp (s : State) (f : ℚ) : (s.setBaseFrequency f).mod.cp = s.mod.cp := rfl
@[simp] theorem State.setBaseFrequency_status (s : State) (f : ℚ) :
    (s.setBaseFrequency f).mod.status = s.mod.status := rfl
@[simp] theorem State.setBaseFrequency_out (s : State) (f : ℚ) : (s.setBaseFrequency f).mod.out = s.mod.out := rfl
@[simp] theorem State.setBaseFrequency_ignored (s : State) (f : ℚ) :
    (s.setBaseFrequency f).mod.ignored = s.mod.ignored := rfl

/-! `State.setPhase` -/

@[simp] theorem State.setPhase_cfg (s : State) (d : U16) : (s.setPhase d).cfg = s.cfg := rfl
@[simp] theorem State.setPhase_cs (s : State) (d : U16) : (s.setPhase d).cs = s.cs := rfl
@[simp] theorem State.setPhase_ib (s : State) (d : U16) : (s.setPhase d).ib = s.ib := rfl
@[simp] theorem State.setPhase_active (s : State) (d : U16) : (s.setPhase d).active = s.active := rfl
@[simp] theorem State.setPhase_dem (s : State) (d : U16) : (s.setPhase d).dem = s.dem := rfl
@[simp] theorem State.setPhase_baseFrequency (s : State) (d : U16) :
    (s.setPhase d).mod.baseFrequency = s.mod.baseFrequency := rfl
@[simp] theorem State.setPhase_phase (s : State) (d : U16) : (s.setPhase d).mod.phase = d := rfl
@[simp] theorem State.setPhase_cp (s : State) (d : U16) : (s.setPhase d).mod.cp = s.mod.cp := rfl
@[simp] theorem State.setPhase_status (s : State) (d : U16) : (s.setPhase d).mod.status = s.mod.status := rfl
@[simp] theorem State.setPhase_out (s : State) (d : U16) : (s.setPhase d).mod.out = s.mod.out := rfl
@[simp] theorem State.setPhase_ignored (s : State) (d : U16) : (s.setPhase d).mod.ignored = s.mod.ignored := rfl

/-! `State.recordIgnored` -/

@[simp] theorem State.recordIgnored_cfg (s : State) (id : U16) : (s.recordIgnored id).cfg = s.cfg := rfl
@[simp] theorem State.recordIgnored_cs (s : State) (id : U16) : (s.recordIgnored id).cs = s.cs := rfl
@[simp] theorem State.recordIgnored_ib (s : State) (id : U16) : (s.recordIgnored id).ib = s.ib := rfl
@[simp] theorem State.recordIgnored_active (s : State) (id : U16) : (s.recordIgnored id).active = s.active := rfl
@[simp] theorem State.recordIgnored_dem (s : State) (id : U16) : (s.recordIgnored id).dem = s.dem := rfl
@[simp] theorem State.recordIgnored_baseFrequency (s : State) (id : U16) :
    (s.recordIgnored id).mod.baseFrequency = s.mod.baseFrequency := rfl
@[simp] theorem State.recordIgnored_phase (s : State) (id : U16) : (s.recordIgnored id).mod.phase = s.mod.phase := rfl
@[simp] theorem State.recordIgnored_cp (s : State) (id : U16) : (s.recordIgnored id).mod.cp = s.mod.cp := rfl
@[simp] theorem State.recordIgnored_status (s : State) (id : U16) :
    (s.recordIgnored id).mod.status = s.mod.status := rfl
@[simp] theorem State.recordIgnored_out (s : State) (id : U16) : (s.recordIgnored id).mod.out = s.mod.out := rfl
@[simp] theorem State.recordIgnored_ignored (s : State) (id : U16) :
    (s.recordIgnored id).mod.ignored = s.mod.ignored ++ [id] := rfl

/-! `State.advance` -/

@[simp] theorem State.advance_cfg (s : State) : (s.advance).cfg = s.cfg := rfl
@[simp] theorem State.advance_cs (s : State) : (s.advance).cs = s.cs := rfl
@[simp] theorem State.advance_ib (s : State) : (s.advance).ib = s.ib := rfl
@[simp] theorem State.advance_active (s : State) : (s.advance).active = s.active := rfl
@[simp] theorem State.advance_dem (s : State) : (s.advance).dem = s.dem := rfl
@[simp] theorem State.advance_baseFrequency (s : State) : (s.advance).mod.baseFrequency = s.mod.baseFrequency := rfl
@[simp] theorem State.advance_phase (s : State) : (s.advance).mod.phase = s.mod.phase := rfl
@[simp] theorem State.advance_cp (s : State) : (s.advance).mod.cp = s.mod.cp + 1 := rfl
@[simp] theorem State.advance_status (s : State) : (s.advance).mod.status = s.mod.status := rfl
@[simp] theorem State.advance_out (s : State) : (s.advance).mod.out = s.mod.out := rfl
@[simp] theorem State.advance_ignored (s : State) : (s.advance).mod.ignored = s.mod.ignored := rfl

/-! `State.finish` -/

@[simp] theorem State.finish_cfg (s : State) : (s.finish).cfg = s.cfg := rfl
@[simp] theorem State.finish_cs (s : State) : (s.finish).cs = s.cs := rfl
@[simp] theorem State.finish_ib (s : State) : (s.finish).ib = s.ib := rfl
@[simp] theorem State.finish_active (s : State) : (s.finish).active = s.active := rfl
@[simp] theorem State.finish_dem (s : State) : (s.finish).dem = s.dem := rfl
@[simp] theorem State.finish_baseFrequency (s : State) : (s.finish).mod.baseFrequency = s.mod.baseFrequency := rfl
@[simp] theorem State.finish_phase (s : State) : (s.finish).mod.phase = s.mod.phase := rfl
@[simp] theorem State.finish_cp (s : State) : (s.finish).mod.cp = s.mod.cp := rfl
@[simp] theorem State.finish_status (s : State) : (s.finish).mod.status = .done := rfl
@[simp] theorem State.finish_out (s : State) : (s.finish).mod.out = s.mod.out := rfl
@[simp] theorem State.finish_ignored (s : State) : (s.finish).mod.ignored = s.mod.ignored := rfl

/-! `State.takeException` -/

@[simp] theorem State.takeException_cfg (s : State) (e : Exception) : (s.takeException e).cfg = s.cfg := rfl
@[simp] theorem State.takeException_cs (s : State) (e : Exception) : (s.takeException e).cs = s.cs := rfl
@[simp] theorem State.takeException_ib (s : State) (e : Exception) : (s.takeException e).ib = s.ib := rfl
@[simp] theorem State.takeException_active (s : State) (e : Exception) : (s.takeException e).active = s.active := rfl
@[simp] theorem State.takeException_dem (s : State) (e : Exception) : (s.takeException e).dem = s.dem := rfl
@[simp] theorem State.takeException_baseFrequency (s : State) (e : Exception) :
    (s.takeException e).mod.baseFrequency = s.mod.baseFrequency := rfl
@[simp] theorem State.takeException_phase (s : State) (e : Exception) :
    (s.takeException e).mod.phase = s.mod.phase := rfl
@[simp] theorem State.takeException_cp (s : State) (e : Exception) : (s.takeException e).mod.cp = s.mod.cp := rfl
@[simp] theorem State.takeException_status (s : State) (e : Exception) :
    (s.takeException e).mod.status = .faulted e s.mod.cp := rfl
@[simp] theorem State.takeException_out (s : State) (e : Exception) : (s.takeException e).mod.out = s.mod.out := rfl
@[simp] theorem State.takeException_ignored (s : State) (e : Exception) :
    (s.takeException e).mod.ignored = s.mod.ignored := rfl

/-! `State.stepDem` -/

@[simp] theorem State.stepDem_cfg (s : State) : s.stepDem.cfg = s.cfg := rfl
@[simp] theorem State.stepDem_cs (s : State) : s.stepDem.cs = s.cs := rfl
@[simp] theorem State.stepDem_ib (s : State) : s.stepDem.ib = s.ib := rfl
@[simp] theorem State.stepDem_active (s : State) : s.stepDem.active = s.active := rfl
@[simp] theorem State.stepDem_mod (s : State) : s.stepDem.mod = s.mod := rfl
@[simp] theorem State.stepDem_dem (s : State) : s.stepDem.dem = demStep s.ib s.dem := rfl

/-! `Demodulator.append` -/

@[simp] theorem Demodulator.append_baseFrequency (d : Demodulator) (es : List Emitted) :
    (d.append es).baseFrequency = d.baseFrequency := rfl
@[simp] theorem Demodulator.append_phase (d : Demodulator) (es : List Emitted) : (d.append es).phase = d.phase := rfl
@[simp] theorem Demodulator.append_pos (d : Demodulator) (es : List Emitted) : (d.append es).pos = d.pos := rfl
@[simp] theorem Demodulator.append_mode (d : Demodulator) (es : List Emitted) : (d.append es).mode = d.mode := rfl
@[simp] theorem Demodulator.append_c (d : Demodulator) (es : List Emitted) : (d.append es).c = d.c := rfl
@[simp] theorem Demodulator.append_runStart (d : Demodulator) (es : List Emitted) :
    (d.append es).runStart = d.runStart := rfl
@[simp] theorem Demodulator.append_runEnd (d : Demodulator) (es : List Emitted) :
    (d.append es).runEnd = d.runEnd := rfl
@[simp] theorem Demodulator.append_origin (d : Demodulator) (es : List Emitted) :
    (d.append es).origin = d.origin := rfl
@[simp] theorem Demodulator.append_dataStart (d : Demodulator) (es : List Emitted) :
    (d.append es).dataStart = d.dataStart := rfl
@[simp] theorem Demodulator.append_acc (d : Demodulator) (es : List Emitted) : (d.append es).acc = d.acc := rfl
@[simp] theorem Demodulator.append_bitIdx (d : Demodulator) (es : List Emitted) :
    (d.append es).bitIdx = d.bitIdx := rfl
@[simp] theorem Demodulator.append_anchor (d : Demodulator) (es : List Emitted) :
    (d.append es).anchor = d.anchor := rfl
@[simp] theorem Demodulator.append_boundary (d : Demodulator) (es : List Emitted) :
    (d.append es).boundary = d.boundary := rfl
@[simp] theorem Demodulator.append_gapPending (d : Demodulator) (es : List Emitted) :
    (d.append es).gapPending = d.gapPending := rfl
@[simp] theorem Demodulator.append_gapStart (d : Demodulator) (es : List Emitted) :
    (d.append es).gapStart = d.gapStart := rfl
@[simp] theorem Demodulator.append_out (d : Demodulator) (es : List Emitted) : (d.append es).out = d.out ++ es := rfl
@[simp] theorem Demodulator.append_status (d : Demodulator) (es : List Emitted) :
    (d.append es).status = d.status := rfl

/-! `Demodulator.accept` -/

@[simp] theorem Demodulator.accept_baseFrequency (d : Demodulator) : (d.accept).baseFrequency = d.baseFrequency := rfl
@[simp] theorem Demodulator.accept_phase (d : Demodulator) : (d.accept).phase = d.phase := rfl
@[simp] theorem Demodulator.accept_pos (d : Demodulator) : (d.accept).pos = d.pos := rfl
@[simp] theorem Demodulator.accept_mode (d : Demodulator) : (d.accept).mode = .carrier := rfl
@[simp] theorem Demodulator.accept_c (d : Demodulator) : (d.accept).c = 0 := rfl
@[simp] theorem Demodulator.accept_runStart (d : Demodulator) : (d.accept).runStart = d.pos := rfl
@[simp] theorem Demodulator.accept_runEnd (d : Demodulator) : (d.accept).runEnd = d.pos := rfl
@[simp] theorem Demodulator.accept_origin (d : Demodulator) : (d.accept).origin = d.origin := rfl
@[simp] theorem Demodulator.accept_dataStart (d : Demodulator) : (d.accept).dataStart = d.dataStart := rfl
@[simp] theorem Demodulator.accept_acc (d : Demodulator) : (d.accept).acc = d.acc := rfl
@[simp] theorem Demodulator.accept_bitIdx (d : Demodulator) : (d.accept).bitIdx = d.bitIdx := rfl
@[simp] theorem Demodulator.accept_anchor (d : Demodulator) : (d.accept).anchor = d.pos := rfl
@[simp] theorem Demodulator.accept_boundary (d : Demodulator) : (d.accept).boundary = d.boundary := rfl
@[simp] theorem Demodulator.accept_gapPending (d : Demodulator) : (d.accept).gapPending = d.gapPending := rfl
@[simp] theorem Demodulator.accept_gapStart (d : Demodulator) : (d.accept).gapStart = d.gapStart := rfl
@[simp] theorem Demodulator.accept_out (d : Demodulator) : (d.accept).out = d.out := rfl
@[simp] theorem Demodulator.accept_status (d : Demodulator) : (d.accept).status = d.status := rfl

/-! `Demodulator.countCycle` -/

@[simp] theorem Demodulator.countCycle_baseFrequency (d : Demodulator) (p : Nat) :
    (d.countCycle p).baseFrequency = d.baseFrequency := rfl
@[simp] theorem Demodulator.countCycle_phase (d : Demodulator) (p : Nat) : (d.countCycle p).phase = d.phase := rfl
@[simp] theorem Demodulator.countCycle_pos (d : Demodulator) (p : Nat) : (d.countCycle p).pos = p := rfl
@[simp] theorem Demodulator.countCycle_mode (d : Demodulator) (p : Nat) : (d.countCycle p).mode = d.mode := rfl
@[simp] theorem Demodulator.countCycle_c (d : Demodulator) (p : Nat) : (d.countCycle p).c = d.c + 1 := rfl
@[simp] theorem Demodulator.countCycle_runStart (d : Demodulator) (p : Nat) :
    (d.countCycle p).runStart = d.runStart := rfl
@[simp] theorem Demodulator.countCycle_runEnd (d : Demodulator) (p : Nat) : (d.countCycle p).runEnd = p := rfl
@[simp] theorem Demodulator.countCycle_origin (d : Demodulator) (p : Nat) : (d.countCycle p).origin = d.origin := rfl
@[simp] theorem Demodulator.countCycle_dataStart (d : Demodulator) (p : Nat) :
    (d.countCycle p).dataStart = d.dataStart := rfl
@[simp] theorem Demodulator.countCycle_acc (d : Demodulator) (p : Nat) : (d.countCycle p).acc = d.acc := rfl
@[simp] theorem Demodulator.countCycle_bitIdx (d : Demodulator) (p : Nat) : (d.countCycle p).bitIdx = d.bitIdx := rfl
@[simp] theorem Demodulator.countCycle_anchor (d : Demodulator) (p : Nat) : (d.countCycle p).anchor = d.anchor := rfl
@[simp] theorem Demodulator.countCycle_boundary (d : Demodulator) (p : Nat) :
    (d.countCycle p).boundary = d.boundary := rfl
@[simp] theorem Demodulator.countCycle_gapPending (d : Demodulator) (p : Nat) :
    (d.countCycle p).gapPending = d.gapPending := rfl
@[simp] theorem Demodulator.countCycle_gapStart (d : Demodulator) (p : Nat) :
    (d.countCycle p).gapStart = d.gapStart := rfl
@[simp] theorem Demodulator.countCycle_out (d : Demodulator) (p : Nat) : (d.countCycle p).out = d.out := rfl
@[simp] theorem Demodulator.countCycle_status (d : Demodulator) (p : Nat) : (d.countCycle p).status = d.status := rfl

/-! `Demodulator.startByte` -/

@[simp] theorem Demodulator.startByte_baseFrequency (d : Demodulator) (p : Nat) :
    (d.startByte p).baseFrequency = d.baseFrequency := rfl
@[simp] theorem Demodulator.startByte_phase (d : Demodulator) (p : Nat) : (d.startByte p).phase = d.phase := rfl
@[simp] theorem Demodulator.startByte_pos (d : Demodulator) (p : Nat) : (d.startByte p).pos = p := rfl
@[simp] theorem Demodulator.startByte_mode (d : Demodulator) (p : Nat) : (d.startByte p).mode = .byte := rfl
@[simp] theorem Demodulator.startByte_c (d : Demodulator) (p : Nat) : (d.startByte p).c = d.c := rfl
@[simp] theorem Demodulator.startByte_runStart (d : Demodulator) (p : Nat) :
    (d.startByte p).runStart = d.runStart := rfl
@[simp] theorem Demodulator.startByte_runEnd (d : Demodulator) (p : Nat) : (d.startByte p).runEnd = d.runEnd := rfl
@[simp] theorem Demodulator.startByte_origin (d : Demodulator) (p : Nat) : (d.startByte p).origin = d.origin := rfl
@[simp] theorem Demodulator.startByte_dataStart (d : Demodulator) (p : Nat) :
    (d.startByte p).dataStart = d.dataStart := rfl
@[simp] theorem Demodulator.startByte_acc (d : Demodulator) (p : Nat) : (d.startByte p).acc = 0 := rfl
@[simp] theorem Demodulator.startByte_bitIdx (d : Demodulator) (p : Nat) : (d.startByte p).bitIdx = 0 := rfl
@[simp] theorem Demodulator.startByte_anchor (d : Demodulator) (p : Nat) : (d.startByte p).anchor = d.anchor := rfl
@[simp] theorem Demodulator.startByte_boundary (d : Demodulator) (p : Nat) :
    (d.startByte p).boundary = d.boundary := rfl
@[simp] theorem Demodulator.startByte_gapPending (d : Demodulator) (p : Nat) :
    (d.startByte p).gapPending = d.gapPending := rfl
@[simp] theorem Demodulator.startByte_gapStart (d : Demodulator) (p : Nat) :
    (d.startByte p).gapStart = d.gapStart := rfl
@[simp] theorem Demodulator.startByte_out (d : Demodulator) (p : Nat) : (d.startByte p).out = d.out := rfl
@[simp] theorem Demodulator.startByte_status (d : Demodulator) (p : Nat) : (d.startByte p).status = d.status := rfl

/-! `Demodulator.startRun` -/

@[simp] theorem Demodulator.startRun_baseFrequency (d : Demodulator) (p : Nat) :
    (d.startRun p).baseFrequency = d.baseFrequency := rfl
@[simp] theorem Demodulator.startRun_phase (d : Demodulator) (p : Nat) : (d.startRun p).phase = d.phase := rfl
@[simp] theorem Demodulator.startRun_pos (d : Demodulator) (p : Nat) : (d.startRun p).pos = p := rfl
@[simp] theorem Demodulator.startRun_mode (d : Demodulator) (p : Nat) : (d.startRun p).mode = .carrier := rfl
@[simp] theorem Demodulator.startRun_c (d : Demodulator) (p : Nat) : (d.startRun p).c = 1 := rfl
@[simp] theorem Demodulator.startRun_runStart (d : Demodulator) (p : Nat) : (d.startRun p).runStart = d.pos := rfl
@[simp] theorem Demodulator.startRun_runEnd (d : Demodulator) (p : Nat) : (d.startRun p).runEnd = p := rfl
@[simp] theorem Demodulator.startRun_origin (d : Demodulator) (p : Nat) : (d.startRun p).origin = d.origin := rfl
@[simp] theorem Demodulator.startRun_dataStart (d : Demodulator) (p : Nat) :
    (d.startRun p).dataStart = d.dataStart := rfl
@[simp] theorem Demodulator.startRun_acc (d : Demodulator) (p : Nat) : (d.startRun p).acc = d.acc := rfl
@[simp] theorem Demodulator.startRun_bitIdx (d : Demodulator) (p : Nat) : (d.startRun p).bitIdx = d.bitIdx := rfl
@[simp] theorem Demodulator.startRun_anchor (d : Demodulator) (p : Nat) : (d.startRun p).anchor = d.anchor := rfl
@[simp] theorem Demodulator.startRun_boundary (d : Demodulator) (p : Nat) :
    (d.startRun p).boundary = d.boundary := rfl
@[simp] theorem Demodulator.startRun_gapPending (d : Demodulator) (p : Nat) :
    (d.startRun p).gapPending = d.gapPending := rfl
@[simp] theorem Demodulator.startRun_gapStart (d : Demodulator) (p : Nat) :
    (d.startRun p).gapStart = d.gapStart := rfl
@[simp] theorem Demodulator.startRun_out (d : Demodulator) (p : Nat) : (d.startRun p).out = d.out := rfl
@[simp] theorem Demodulator.startRun_status (d : Demodulator) (p : Nat) : (d.startRun p).status = d.status := rfl

/-! `Demodulator.takeBit` -/

@[simp] theorem Demodulator.takeBit_baseFrequency (d : Demodulator) (b : Bool) (p : Nat) :
    (d.takeBit b p).baseFrequency = d.baseFrequency := rfl
@[simp] theorem Demodulator.takeBit_phase (d : Demodulator) (b : Bool) (p : Nat) :
    (d.takeBit b p).phase = d.phase := rfl
@[simp] theorem Demodulator.takeBit_pos (d : Demodulator) (b : Bool) (p : Nat) : (d.takeBit b p).pos = p := rfl
@[simp] theorem Demodulator.takeBit_mode (d : Demodulator) (b : Bool) (p : Nat) : (d.takeBit b p).mode = d.mode := rfl
@[simp] theorem Demodulator.takeBit_c (d : Demodulator) (b : Bool) (p : Nat) : (d.takeBit b p).c = d.c := rfl
@[simp] theorem Demodulator.takeBit_runStart (d : Demodulator) (b : Bool) (p : Nat) :
    (d.takeBit b p).runStart = d.runStart := rfl
@[simp] theorem Demodulator.takeBit_runEnd (d : Demodulator) (b : Bool) (p : Nat) :
    (d.takeBit b p).runEnd = d.runEnd := rfl
@[simp] theorem Demodulator.takeBit_origin (d : Demodulator) (b : Bool) (p : Nat) :
    (d.takeBit b p).origin = d.origin := rfl
@[simp] theorem Demodulator.takeBit_dataStart (d : Demodulator) (b : Bool) (p : Nat) :
    (d.takeBit b p).dataStart = d.dataStart := rfl
@[simp] theorem Demodulator.takeBit_acc (d : Demodulator) (b : Bool) (p : Nat) :
    (d.takeBit b p).acc = d.acc + (if b then 1#8 <<< d.bitIdx else 0#8) := rfl
@[simp] theorem Demodulator.takeBit_bitIdx (d : Demodulator) (b : Bool) (p : Nat) :
    (d.takeBit b p).bitIdx = d.bitIdx + 1 := rfl
@[simp] theorem Demodulator.takeBit_anchor (d : Demodulator) (b : Bool) (p : Nat) :
    (d.takeBit b p).anchor = d.anchor := rfl
@[simp] theorem Demodulator.takeBit_boundary (d : Demodulator) (b : Bool) (p : Nat) :
    (d.takeBit b p).boundary = d.boundary := rfl
@[simp] theorem Demodulator.takeBit_gapPending (d : Demodulator) (b : Bool) (p : Nat) :
    (d.takeBit b p).gapPending = d.gapPending := rfl
@[simp] theorem Demodulator.takeBit_gapStart (d : Demodulator) (b : Bool) (p : Nat) :
    (d.takeBit b p).gapStart = d.gapStart := rfl
@[simp] theorem Demodulator.takeBit_out (d : Demodulator) (b : Bool) (p : Nat) : (d.takeBit b p).out = d.out := rfl
@[simp] theorem Demodulator.takeBit_status (d : Demodulator) (b : Bool) (p : Nat) :
    (d.takeBit b p).status = d.status := rfl

end Sys2Proof.Machine
end

