-- ==== Sys2Proof/Laws/Demod.lean ====
section
/-! SUPPORT. What the shared operations of DEM change and leave, and what a DEM step can do, said once. -/

namespace Sys2Proof.Machine

/-! `FlushGap` (R206) changes the output and the pending flag only. -/

@[simp] theorem Demodulator.flushGap_baseFrequency (d : Demodulator) (e : Nat) : (d.flushGap e).baseFrequency = d.baseFrequency := by
  unfold Demodulator.flushGap; split_ifs <;> rfl
@[simp] theorem Demodulator.flushGap_phase (d : Demodulator) (e : Nat) : (d.flushGap e).phase = d.phase := by
  unfold Demodulator.flushGap; split_ifs <;> rfl
@[simp] theorem Demodulator.flushGap_pos (d : Demodulator) (e : Nat) : (d.flushGap e).pos = d.pos := by
  unfold Demodulator.flushGap; split_ifs <;> rfl
@[simp] theorem Demodulator.flushGap_mode (d : Demodulator) (e : Nat) : (d.flushGap e).mode = d.mode := by
  unfold Demodulator.flushGap; split_ifs <;> rfl
@[simp] theorem Demodulator.flushGap_c (d : Demodulator) (e : Nat) : (d.flushGap e).c = d.c := by
  unfold Demodulator.flushGap; split_ifs <;> rfl
@[simp] theorem Demodulator.flushGap_runStart (d : Demodulator) (e : Nat) : (d.flushGap e).runStart = d.runStart := by
  unfold Demodulator.flushGap; split_ifs <;> rfl
@[simp] theorem Demodulator.flushGap_runEnd (d : Demodulator) (e : Nat) : (d.flushGap e).runEnd = d.runEnd := by
  unfold Demodulator.flushGap; split_ifs <;> rfl
@[simp] theorem Demodulator.flushGap_origin (d : Demodulator) (e : Nat) : (d.flushGap e).origin = d.origin := by
  unfold Demodulator.flushGap; split_ifs <;> rfl
@[simp] theorem Demodulator.flushGap_dataStart (d : Demodulator) (e : Nat) : (d.flushGap e).dataStart = d.dataStart := by
  unfold Demodulator.flushGap; split_ifs <;> rfl
@[simp] theorem Demodulator.flushGap_acc (d : Demodulator) (e : Nat) : (d.flushGap e).acc = d.acc := by
  unfold Demodulator.flushGap; split_ifs <;> rfl
@[simp] theorem Demodulator.flushGap_bitIdx (d : Demodulator) (e : Nat) : (d.flushGap e).bitIdx = d.bitIdx := by
  unfold Demodulator.flushGap; split_ifs <;> rfl
@[simp] theorem Demodulator.flushGap_anchor (d : Demodulator) (e : Nat) : (d.flushGap e).anchor = d.anchor := by
  unfold Demodulator.flushGap; split_ifs <;> rfl
@[simp] theorem Demodulator.flushGap_boundary (d : Demodulator) (e : Nat) : (d.flushGap e).boundary = d.boundary := by
  unfold Demodulator.flushGap; split_ifs <;> rfl
@[simp] theorem Demodulator.flushGap_gapStart (d : Demodulator) (e : Nat) : (d.flushGap e).gapStart = d.gapStart := by
  unfold Demodulator.flushGap; split_ifs <;> rfl
@[simp] theorem Demodulator.flushGap_status (d : Demodulator) (e : Nat) : (d.flushGap e).status = d.status := by
  unfold Demodulator.flushGap; split_ifs <;> rfl

@[simp] theorem Demodulator.flushGap_gapPending (d : Demodulator) (e : Nat) : (d.flushGap e).gapPending = false := by
  unfold Demodulator.flushGap
  split_ifs with h
  · rfl
  · rfl
  · simpa using h

/-- The output after `FlushGap(e)`: a Gap of the pending span when that is non-empty, else nothing (R206). -/
theorem Demodulator.flushGap_out (d : Demodulator) (e : Nat) :
    (d.flushGap e).out = d.out ++ if d.gapPending = true ∧ d.gapStart < e then
      [{ chunk := gapChunk (e - d.gapStart), start := d.gapStart, stop := e }] else [] := by
  unfold Demodulator.flushGap
  by_cases h : d.gapPending = true
  · by_cases hg : d.gapStart < e <;> simp [h, hg]
  · simp [h]

/-! `EmitCarrier` (R207) changes the output only. -/

@[simp] theorem Demodulator.emitCarrier_baseFrequency (d : Demodulator) : (d.emitCarrier).baseFrequency = d.baseFrequency := rfl
@[simp] theorem Demodulator.emitCarrier_phase (d : Demodulator) : (d.emitCarrier).phase = d.phase := rfl
@[simp] theorem Demodulator.emitCarrier_pos (d : Demodulator) : (d.emitCarrier).pos = d.pos := rfl
@[simp] theorem Demodulator.emitCarrier_mode (d : Demodulator) : (d.emitCarrier).mode = d.mode := rfl
@[simp] theorem Demodulator.emitCarrier_c (d : Demodulator) : (d.emitCarrier).c = d.c := rfl
@[simp] theorem Demodulator.emitCarrier_runStart (d : Demodulator) : (d.emitCarrier).runStart = d.runStart := rfl
@[simp] theorem Demodulator.emitCarrier_runEnd (d : Demodulator) : (d.emitCarrier).runEnd = d.runEnd := rfl
@[simp] theorem Demodulator.emitCarrier_origin (d : Demodulator) : (d.emitCarrier).origin = d.origin := rfl
@[simp] theorem Demodulator.emitCarrier_dataStart (d : Demodulator) : (d.emitCarrier).dataStart = d.dataStart := rfl
@[simp] theorem Demodulator.emitCarrier_acc (d : Demodulator) : (d.emitCarrier).acc = d.acc := rfl
@[simp] theorem Demodulator.emitCarrier_bitIdx (d : Demodulator) : (d.emitCarrier).bitIdx = d.bitIdx := rfl
@[simp] theorem Demodulator.emitCarrier_anchor (d : Demodulator) : (d.emitCarrier).anchor = d.anchor := rfl
@[simp] theorem Demodulator.emitCarrier_boundary (d : Demodulator) : (d.emitCarrier).boundary = d.boundary := rfl
@[simp] theorem Demodulator.emitCarrier_gapPending (d : Demodulator) : (d.emitCarrier).gapPending = d.gapPending := rfl
@[simp] theorem Demodulator.emitCarrier_gapStart (d : Demodulator) : (d.emitCarrier).gapStart = d.gapStart := rfl
@[simp] theorem Demodulator.emitCarrier_status (d : Demodulator) : (d.emitCarrier).status = d.status := rfl

theorem Demodulator.emitCarrier_out (d : Demodulator) : d.emitCarrier.out
    = d.out ++ carrierEntries d.runStart d.runEnd (carrierCounts (carrierCycles (d.runEnd - d.runStart))) := rfl

/-- A run is closed by at least one Carrier chunk (R207). -/
theorem carrierCounts_ne_nil (n : Nat) : carrierCounts n ≠ [] := by
  unfold carrierCounts
  split_ifs with h h0
  · simp
  · simp only [List.append_nil, ne_eq, List.replicate_eq_nil_iff]
    have : 0 < n / u16Max := Nat.div_pos (by omega) (by decide)
    omega
  · simp

/-! `AppendByte` (R209) changes the output and the pending flag only. -/

@[simp] theorem Demodulator.joinByte_baseFrequency (d : Demodulator) (v : Byte) : (d.joinByte v).baseFrequency = d.baseFrequency := by
  unfold Demodulator.joinByte; split
  · split_ifs <;> rfl
  · rfl
@[simp] theorem Demodulator.joinByte_phase (d : Demodulator) (v : Byte) : (d.joinByte v).phase = d.phase := by
  unfold Demodulator.joinByte; split
  · split_ifs <;> rfl
  · rfl
@[simp] theorem Demodulator.joinByte_pos (d : Demodulator) (v : Byte) : (d.joinByte v).pos = d.pos := by
  unfold Demodulator.joinByte; split
  · split_ifs <;> rfl
  · rfl
@[simp] theorem Demodulator.joinByte_mode (d : Demodulator) (v : Byte) : (d.joinByte v).mode = d.mode := by
  unfold Demodulator.joinByte; split
  · split_ifs <;> rfl
  · rfl
@[simp] theorem Demodulator.joinByte_c (d : Demodulator) (v : Byte) : (d.joinByte v).c = d.c := by
  unfold Demodulator.joinByte; split
  · split_ifs <;> rfl
  · rfl
@[simp] theorem Demodulator.joinByte_runStart (d : Demodulator) (v : Byte) : (d.joinByte v).runStart = d.runStart := by
  unfold Demodulator.joinByte; split
  · split_ifs <;> rfl
  · rfl
@[simp] theorem Demodulator.joinByte_runEnd (d : Demodulator) (v : Byte) : (d.joinByte v).runEnd = d.runEnd := by
  unfold Demodulator.joinByte; split
  · split_ifs <;> rfl
  · rfl
@[simp] theorem Demodulator.joinByte_origin (d : Demodulator) (v : Byte) : (d.joinByte v).origin = d.origin := by
  unfold Demodulator.joinByte; split
  · split_ifs <;> rfl
  · rfl
@[simp] theorem Demodulator.joinByte_dataStart (d : Demodulator) (v : Byte) : (d.joinByte v).dataStart = d.dataStart := by
  unfold Demodulator.joinByte; split
  · split_ifs <;> rfl
  · rfl
@[simp] theorem Demodulator.joinByte_acc (d : Demodulator) (v : Byte) : (d.joinByte v).acc = d.acc := by
  unfold Demodulator.joinByte; split
  · split_ifs <;> rfl
  · rfl
@[simp] theorem Demodulator.joinByte_bitIdx (d : Demodulator) (v : Byte) : (d.joinByte v).bitIdx = d.bitIdx := by
  unfold Demodulator.joinByte; split
  · split_ifs <;> rfl
  · rfl
@[simp] theorem Demodulator.joinByte_anchor (d : Demodulator) (v : Byte) : (d.joinByte v).anchor = d.anchor := by
  unfold Demodulator.joinByte; split
  · split_ifs <;> rfl
  · rfl
@[simp] theorem Demodulator.joinByte_boundary (d : Demodulator) (v : Byte) : (d.joinByte v).boundary = d.boundary := by
  unfold Demodulator.joinByte; split
  · split_ifs <;> rfl
  · rfl
@[simp] theorem Demodulator.joinByte_gapPending (d : Demodulator) (v : Byte) : (d.joinByte v).gapPending = d.gapPending := by
  unfold Demodulator.joinByte; split
  · split_ifs <;> rfl
  · rfl
@[simp] theorem Demodulator.joinByte_gapStart (d : Demodulator) (v : Byte) : (d.joinByte v).gapStart = d.gapStart := by
  unfold Demodulator.joinByte; split
  · split_ifs <;> rfl
  · rfl
@[simp] theorem Demodulator.joinByte_status (d : Demodulator) (v : Byte) : (d.joinByte v).status = d.status := by
  unfold Demodulator.joinByte; split
  · split_ifs <;> rfl
  · rfl

/-- The output after a byte joins it: the last chunk takes the byte when that is Data, else a Data chunk opens (R209). -/
theorem Demodulator.joinByte_out (d : Demodulator) (v : Byte) :
    (∃ e, d.out.getLast? = some e ∧ e.chunk.id = 0x0100 ∧ (d.joinByte v).out
        = d.out.dropLast ++ [{ chunk := dataChunk (e.chunk.payload ++ [v]), start := e.start, stop := d.pos }])
      ∨ ((∀ e, d.out.getLast? = some e → e.chunk.id ≠ 0x0100)
        ∧ (d.joinByte v).out = d.out ++ [{ chunk := dataChunk [v], start := d.dataStart, stop := d.pos }]) := by
  unfold Demodulator.joinByte Emitted.isData
  cases h : d.out.getLast? with
  | none => exact .inr ⟨by simp, rfl⟩
  | some e =>
    by_cases hd : e.chunk.id = 0x0100
    · exact .inl ⟨e, rfl, hd, by simp [hd]⟩
    · refine .inr ⟨by simpa using hd, ?_⟩
      simp only [decide_eq_true_eq]
      rw [if_neg hd]
      rfl

@[simp] theorem Demodulator.appendByte_baseFrequency (d : Demodulator) (v : Byte) : (d.appendByte v).baseFrequency = d.baseFrequency := by
  simp [Demodulator.appendByte]
@[simp] theorem Demodulator.appendByte_phase (d : Demodulator) (v : Byte) : (d.appendByte v).phase = d.phase := by
  simp [Demodulator.appendByte]
@[simp] theorem Demodulator.appendByte_pos (d : Demodulator) (v : Byte) : (d.appendByte v).pos = d.pos := by
  simp [Demodulator.appendByte]
@[simp] theorem Demodulator.appendByte_mode (d : Demodulator) (v : Byte) : (d.appendByte v).mode = d.mode := by
  simp [Demodulator.appendByte]
@[simp] theorem Demodulator.appendByte_c (d : Demodulator) (v : Byte) : (d.appendByte v).c = d.c := by
  simp [Demodulator.appendByte]
@[simp] theorem Demodulator.appendByte_runStart (d : Demodulator) (v : Byte) : (d.appendByte v).runStart = d.runStart := by
  simp [Demodulator.appendByte]
@[simp] theorem Demodulator.appendByte_runEnd (d : Demodulator) (v : Byte) : (d.appendByte v).runEnd = d.runEnd := by
  simp [Demodulator.appendByte]
@[simp] theorem Demodulator.appendByte_origin (d : Demodulator) (v : Byte) : (d.appendByte v).origin = d.origin := by
  simp [Demodulator.appendByte]
@[simp] theorem Demodulator.appendByte_dataStart (d : Demodulator) (v : Byte) : (d.appendByte v).dataStart = d.dataStart := by
  simp [Demodulator.appendByte]
@[simp] theorem Demodulator.appendByte_acc (d : Demodulator) (v : Byte) : (d.appendByte v).acc = d.acc := by
  simp [Demodulator.appendByte]
@[simp] theorem Demodulator.appendByte_bitIdx (d : Demodulator) (v : Byte) : (d.appendByte v).bitIdx = d.bitIdx := by
  simp [Demodulator.appendByte]
@[simp] theorem Demodulator.appendByte_anchor (d : Demodulator) (v : Byte) : (d.appendByte v).anchor = d.anchor := by
  simp [Demodulator.appendByte]
@[simp] theorem Demodulator.appendByte_boundary (d : Demodulator) (v : Byte) : (d.appendByte v).boundary = d.boundary := by
  simp [Demodulator.appendByte]
@[simp] theorem Demodulator.appendByte_gapStart (d : Demodulator) (v : Byte) : (d.appendByte v).gapStart = d.gapStart := by
  simp [Demodulator.appendByte]
@[simp] theorem Demodulator.appendByte_status (d : Demodulator) (v : Byte) : (d.appendByte v).status = d.status := by
  simp [Demodulator.appendByte]

@[simp] theorem Demodulator.appendByte_gapPending (d : Demodulator) (v : Byte) : (d.appendByte v).gapPending = false := by
  simp [Demodulator.appendByte]

/-! Extending the last span (R219) changes the output only. -/

@[simp] theorem Demodulator.extendLast_baseFrequency (d : Demodulator) (p : Nat) : (d.extendLast p).baseFrequency = d.baseFrequency := by
  unfold Demodulator.extendLast; split <;> rfl
@[simp] theorem Demodulator.extendLast_phase (d : Demodulator) (p : Nat) : (d.extendLast p).phase = d.phase := by
  unfold Demodulator.extendLast; split <;> rfl
@[simp] theorem Demodulator.extendLast_pos (d : Demodulator) (p : Nat) : (d.extendLast p).pos = d.pos := by
  unfold Demodulator.extendLast; split <;> rfl
@[simp] theorem Demodulator.extendLast_mode (d : Demodulator) (p : Nat) : (d.extendLast p).mode = d.mode := by
  unfold Demodulator.extendLast; split <;> rfl
@[simp] theorem Demodulator.extendLast_c (d : Demodulator) (p : Nat) : (d.extendLast p).c = d.c := by
  unfold Demodulator.extendLast; split <;> rfl
@[simp] theorem Demodulator.extendLast_runStart (d : Demodulator) (p : Nat) : (d.extendLast p).runStart = d.runStart := by
  unfold Demodulator.extendLast; split <;> rfl
@[simp] theorem Demodulator.extendLast_runEnd (d : Demodulator) (p : Nat) : (d.extendLast p).runEnd = d.runEnd := by
  unfold Demodulator.extendLast; split <;> rfl
@[simp] theorem Demodulator.extendLast_origin (d : Demodulator) (p : Nat) : (d.extendLast p).origin = d.origin := by
  unfold Demodulator.extendLast; split <;> rfl
@[simp] theorem Demodulator.extendLast_dataStart (d : Demodulator) (p : Nat) : (d.extendLast p).dataStart = d.dataStart := by
  unfold Demodulator.extendLast; split <;> rfl
@[simp] theorem Demodulator.extendLast_acc (d : Demodulator) (p : Nat) : (d.extendLast p).acc = d.acc := by
  unfold Demodulator.extendLast; split <;> rfl
@[simp] theorem Demodulator.extendLast_bitIdx (d : Demodulator) (p : Nat) : (d.extendLast p).bitIdx = d.bitIdx := by
  unfold Demodulator.extendLast; split <;> rfl
@[simp] theorem Demodulator.extendLast_anchor (d : Demodulator) (p : Nat) : (d.extendLast p).anchor = d.anchor := by
  unfold Demodulator.extendLast; split <;> rfl
@[simp] theorem Demodulator.extendLast_boundary (d : Demodulator) (p : Nat) : (d.extendLast p).boundary = d.boundary := by
  unfold Demodulator.extendLast; split <;> rfl
@[simp] theorem Demodulator.extendLast_gapPending (d : Demodulator) (p : Nat) : (d.extendLast p).gapPending = d.gapPending := by
  unfold Demodulator.extendLast; split <;> rfl
@[simp] theorem Demodulator.extendLast_gapStart (d : Demodulator) (p : Nat) : (d.extendLast p).gapStart = d.gapStart := by
  unfold Demodulator.extendLast; split <;> rfl
@[simp] theorem Demodulator.extendLast_status (d : Demodulator) (p : Nat) : (d.extendLast p).status = d.status := by
  unfold Demodulator.extendLast; split <;> rfl

theorem Demodulator.extendLast_out (d : Demodulator) (p : Nat) {e : Emitted} (h : d.out.getLast? = some e) :
    (d.extendLast p).out = d.out.dropLast ++ [{ e with stop := p }] := by
  simp [Demodulator.extendLast, h]

/-- What `Failure` leaves: `Sync` with a gap pending, at the next untried offset or at the boundary (R220). -/
theorem Demodulator.failure_eq (d : Demodulator) : d.failure = { d with
    pos := if d.gapPending then d.anchor + 1 else d.boundary
    gapStart := if d.gapPending then d.gapStart else d.boundary
    gapPending := true, c := 0, acc := 0, bitIdx := 0, origin := .none, mode := .sync } := by
  unfold Demodulator.failure
  cases h : d.gapPending <;> simp_all

/-! `endOfStream` (R221). -/

@[simp] theorem Demodulator.endOfStream_mode (d : Demodulator) (n : Nat) : (d.endOfStream n).mode = .done := rfl

@[simp] theorem Demodulator.endOfStream_status (d : Demodulator) (n : Nat) : (d.endOfStream n).status = .done := rfl

theorem Demodulator.endOfStream_out (d : Demodulator) (n : Nat) :
    (d.endOfStream n).out = (d.closeRun.openGap.flushGap n).out := rfl

/-- What one DEM step can do from a mode that has a step (R200, R210 to R221). -/
inductive DemMove (ib : List Sample) (d : Demodulator) : Demodulator → Prop where
  | ends : DemMove ib d (d.endOfStream ib.length)
  | accepts (hm : d.mode = .sync) (hp : d.pos < ib.length) : DemMove ib d d.accept
  | scans (hm : d.mode = .sync) (hp : d.pos < ib.length) : DemMove ib d { d with pos := d.pos + 1 }
  | counts (hm : d.mode = .carrier) (p : Nat) (hp : d.pos < p) (hl : p ≤ ib.length) : DemMove ib d (d.countCycle p)
  | endsRun (hm : d.mode = .carrier) : DemMove ib d d.endRun
  | starts (hm : d.mode = .startBit) (p : Nat) (hp : d.pos < p) (hl : p ≤ ib.length) : DemMove ib d (d.startByte p)
  | restarts (hm : d.mode = .startBit) (ho : d.origin = .stopBit) (p : Nat) (hp : d.pos < p) (hl : p ≤ ib.length) :
      DemMove ib d (d.startRun p)
  | takes (hm : d.mode = .byte) (b : Bool) (p : Nat) (hp : d.pos < p) (hl : p ≤ ib.length) (hb : d.bitIdx ≠ 7) :
      DemMove ib d (d.takeBit b p)
  | completes (hm : d.mode = .byte) (b : Bool) (p : Nat) (hp : d.pos < p) (hl : p ≤ ib.length) (hb : d.bitIdx = 7) :
      DemMove ib d (d.takeBit b p).completeByte
  | stops (hm : d.mode = .stopBit) (p : Nat) (hp : d.pos < p) (hl : p ≤ ib.length) : DemMove ib d (d.takeStop p)
  | fails (hm : d.mode = .startBit ∨ d.mode = .byte ∨ d.mode = .stopBit) : DemMove ib d d.failure

/-- Every DEM step is one of the moves. -/
theorem demStep_move (ib : List Sample) (d : Demodulator) (h : d.mode ≠ .done) : DemMove ib d (demStep ib d) := by
  unfold demStep
  cases hm : d.mode with
  | done => exact absurd hm h
  | sync =>
    unfold syncStep
    cases hr : readPulse ib d.pos with
    | endOfStream => exact .ends
    | pulse g len next =>
      have hp := (readPulse_pulse hr).2.1
      simp only
      split_ifs
      · exact .accepts hm hp
      · exact .scans hm hp
  | carrier =>
    unfold carrierStep
    cases hc : classifyCycle ib d.pos fFast with
    | ok l1 l2 next =>
      have a := classifyCycle_ok hc
      exact .counts hm next (by omega) a.2.2.2.1
    | endOfStream => exact .ends
    | phaseMismatch => exact .endsRun hm
    | ratioMismatch => exact .endsRun hm
    | frequencyMismatch => exact .endsRun hm
  | startBit =>
    have hfail : DemMove ib d (startBitFailure ib d) := by
      unfold startBitFailure
      split_ifs with ho
      · cases hc : classifyCycle ib d.pos fFast with
        | ok l1 l2 next =>
          have a := classifyCycle_ok hc
          exact .restarts hm ho next (by omega) a.2.2.2.1
        | endOfStream => exact .ends
        | phaseMismatch => exact .fails (.inl hm)
        | ratioMismatch => exact .fails (.inl hm)
        | frequencyMismatch => exact .fails (.inl hm)
      · exact .fails (.inl hm)
    simp only [startBitStep]
    cases hc : classifyCycle ib d.pos fSlow with
    | ok l1 l2 next =>
      have a := classifyCycle_ok hc
      exact .starts hm next (by omega) a.2.2.2.1
    | endOfStream => exact .ends
    | phaseMismatch => exact hfail
    | ratioMismatch => exact hfail
    | frequencyMismatch => exact hfail
  | byte =>
    unfold byteStep
    cases hr : readBit ib d.pos with
    | bit b next =>
      have a := readBit_bit hr
      simp only
      by_cases hb : d.bitIdx + 1 = 8
      · rw [if_pos hb]
        exact .completes hm b next a.1 a.2 (by omega)
      · rw [if_neg hb]
        exact .takes hm b next a.1 a.2 (by omega)
    | fail => exact .fails (.inr (.inl hm))
    | endOfStream => exact .ends
  | stopBit =>
    unfold stopBitStep
    cases hr : readStop ib d.pos with
    | stop next =>
      have a := readStop_stop hr
      exact .stops hm next a.1 a.2
    | fail => exact .fails (.inr (.inr hm))
    | endOfStream => exact .ends

/-- `Done` has no step: the registers stay (R222). -/
theorem demStep_done (ib : List Sample) (d : Demodulator) (h : d.mode = .done) : demStep ib d = d := by
  simp [demStep, h]

end Sys2Proof.Machine
end

