-- ==== Sys2Proof/Laws/Memory.lean ====
section
/-! SUPPORT. Every sample a chunk renders lies in range (R33, R126), and every operation over OS keeps `Memory.wf`. -/

namespace Sys2Proof.Machine

theorem roundCos_le (amp j n digit k : Nat) (hk : k ≤ amp) : roundCos amp j n digit k ≤ amp := by
  induction digit generalizing k with
  | zero => exact hk
  | succ digit ih =>
    unfold roundCos
    split_ifs with h
    · exact ih _ h.1
    · exact ih _ hk

theorem sineMagnitude_le (amp x half : Nat) : sineMagnitude amp x half ≤ amp :=
  roundCos_le _ _ _ _ _ (Nat.zero_le _)

/-- A sample is at most the amplitude. -/
theorem sineq_natAbs_le (amp ph t n : Nat) : (sineq amp ph t n).natAbs ≤ amp := by
  unfold sineq
  split_ifs <;> simp [sineMagnitude_le]

/-- At amplitude 0 every sample is 0 (R128). -/
theorem sineq_zero (ph t n : Nat) : sineq 0 ph t n = 0 := Int.natAbs_eq_zero.mp (Nat.le_zero.mp (sineq_natAbs_le 0 ph t n))

theorem mem_cycleSamples {amp ph n : Nat} {x : Sample} (h : x ∈ cycleSamples amp ph n) : x.natAbs ≤ amp := by
  simp only [cycleSamples, List.mem_map, List.mem_range] at h
  obtain ⟨t, -, rfl⟩ := h
  exact sineq_natAbs_le _ _ _ _

@[simp] theorem cycleSamples_length (amp ph n : Nat) : (cycleSamples amp ph n).length = n := by simp [cycleSamples]

theorem emit_wf {s : State} {xs : List Sample} (hs : Memory.wf s) (hx : ∀ x ∈ xs, inRange s.cfg.depth x) :
    Memory.wf (s.emit xs) := by
  intro x h
  rcases List.mem_append.mp (show x ∈ s.mod.out ++ xs from h) with h | h
  · exact hs x h
  · exact hx x h

theorem setBaseFrequency_wf {s : State} (f : ℚ) (hs : Memory.wf s) : Memory.wf (s.setBaseFrequency f) := hs

theorem setPhase_wf {s : State} (d : U16) (hs : Memory.wf s) : Memory.wf (s.setPhase d) := hs

theorem recordIgnored_wf {s : State} (id : U16) (hs : Memory.wf s) : Memory.wf (s.recordIgnored id) := hs

theorem advance_wf {s : State} (hs : Memory.wf s) : Memory.wf s.advance := hs

theorem finish_wf {s : State} (hs : Memory.wf s) : Memory.wf s.finish := hs

theorem takeException_wf {s : State} (e : Exception) (hs : Memory.wf s) : Memory.wf (s.takeException e) := hs

theorem stepDem_wf {s : State} (hs : Memory.wf s) : Memory.wf s.stepDem := hs

theorem reset_wf : Memory.wf State.reset := by intro x h; cases h

end Sys2Proof.Machine
end

