-- ==== Sys2Proof/Laws/Ops.lean ====
section
/-! SUPPORT. What each shared operation of MOD can do, said once. -/

namespace Sys2Proof.Machine

open Host (Outcome)

/-- `MemRead` succeeds just when the field lies inside the payload (R11, R52). -/
theorem memRead_eq_some {payload : List Byte} {off n v : Nat} :
    memRead payload off n = some v ↔ off + n ≤ payload.length ∧ v = leNat ((payload.drop off).take n) := by
  unfold memRead
  split_ifs with h <;> simp [h, eq_comm]

/-- `MemRead` raises just when it reaches past the payload (R261). -/
theorem memRead_eq_none {payload : List Byte} {off n : Nat} :
    memRead payload off n = none ↔ payload.length < off + n := by
  unfold memRead
  split_ifs with h <;> simp <;> omega

@[simp] theorem complete_eq (s : State) : complete s = .next s.advance := rfl

@[simp] theorem raise_eq (e : Exception) (s : State) : raise e s = .next (s.takeException e) := rfl

/-- What the meaning of a chunk can answer: it emits samples, or writes one register, and completes, or it raises. -/
inductive ModEffect (s : State) : Outcome State Fault Refusal → Prop where
  | emits (xs : List Sample) : ModEffect s (.next (s.emit xs).advance)
  | setsFrequency (f : ℚ) (positive : 0 < f) : ModEffect s (.next (s.setBaseFrequency f).advance)
  | setsPhase (d : U16) : ModEffect s (.next (s.setPhase d).advance)
  | ignores (id : U16) : ModEffect s (.next (s.recordIgnored id).advance)
  | raisesMalformed : ModEffect s (.next (s.takeException .malformedChunk))
  | raisesInvalid : ModEffect s (.next (s.takeException .invalidValue))

theorem execData_effect (p : List Byte) (s : State) : ModEffect s (execData p s) := .emits _

theorem execDfmt_effect (p : List Byte) (s : State) : ModEffect s (execDfmt p s) := by
  unfold execDfmt
  split
  · exact .raisesMalformed
  · exact .emits _

theorem execCarrier_effect (p : List Byte) (s : State) : ModEffect s (execCarrier p s) := by
  unfold execCarrier
  split
  · exact .raisesMalformed
  · exact .emits _

theorem execDummy_effect (p : List Byte) (s : State) : ModEffect s (execDummy p s) := by
  unfold execDummy
  split
  · exact .raisesMalformed
  · exact .emits _

theorem execGap_effect (p : List Byte) (s : State) : ModEffect s (execGap p s) := by
  unfold execGap
  split
  · exact .raisesMalformed
  · exact .emits _

theorem execBasefreq_effect (p : List Byte) (s : State) : ModEffect s (execBasefreq p s) := by
  unfold execBasefreq
  split
  · exact .raisesMalformed
  · exact .raisesInvalid
  · exact .raisesInvalid
  · split_ifs with h
    · exact .setsFrequency _ (Rat.num_pos.mp h)
    · exact .raisesInvalid

theorem execSecurity_effect (p : List Byte) (s : State) : ModEffect s (execSecurity p s) := by
  unfold execSecurity
  split
  · exact .raisesMalformed
  · split_ifs
    · exact .emits _
    · exact .raisesMalformed

theorem execPhase_effect (p : List Byte) (s : State) : ModEffect s (execPhase p s) := by
  unfold execPhase
  split
  · exact .raisesMalformed
  · exact .setsPhase _

theorem execFgap_effect (p : List Byte) (s : State) : ModEffect s (execFgap p s) := by
  unfold execFgap
  split
  · exact .raisesMalformed
  · exact .raisesInvalid
  · exact .raisesInvalid
  · exact .emits _

theorem execChunk_effect (id : U16) (p : List Byte) (s : State) : ModEffect s (execChunk id p s) := .ignores id

/-- What a MOD step can do (R160): the fetched chunk runs, the run ends, or the pointer is outside CS. -/
theorem stepMod_cases (s : State) :
    (∃ c, s.cs[s.mod.cp]? = some c ∧ stepMod s = exec (decodeChunk c) s)
      ∨ (s.mod.cp = s.cs.length ∧ stepMod s = .next s.finish)
      ∨ (s.cs.length < s.mod.cp ∧ stepMod s = .fault .chunkPointerOutside) := by
  unfold stepMod State.fetch
  cases h : s.cs[s.mod.cp]? with
  | some c => exact .inl ⟨c, rfl, rfl⟩
  | none =>
    have hn : s.cs.length ≤ s.mod.cp := List.getElem?_eq_none_iff.mp h
    by_cases he : s.mod.cp = s.cs.length
    · exact .inr (.inl ⟨he, by simp [he]⟩)
    · exact .inr (.inr ⟨by omega, by simp [he]⟩)

/-- What a step can do: a MOD step, a DEM step, or nothing because both units have stopped. -/
theorem step_cases (s : State) :
    (s.modRuns = true ∧ step s = stepMod s) ∨ (s.dem.runs = true ∧ step s = .next s.stepDem)
      ∨ (s.modRuns = false ∧ s.dem.runs = false ∧ step s = .fault .unitsStopped) := by
  unfold step State.nextUnit
  cases s.active <;> cases hm : s.modRuns <;> cases hd : s.dem.runs <;> simp

end Sys2Proof.Machine
end

