-- ==== Sys2Proof/Laws/PerInstr.lean ====
section
/-! SUPPORT. Per-instruction families (LAWS.json): one lemma per constructor of Instr. -/

namespace Sys2Proof.Laws

/-- A well-formed instruction is what its own chunk decodes to (R80, R83, R97). -/
def ChunkRoundTrip.Statement (i : Instr) : Prop := i.wellFormed = true → decodeChunk i.toChunk = i

theorem ChunkRoundTrip.data (p : List Byte) : ChunkRoundTrip.Statement (.data p) := fun _ => rfl
theorem ChunkRoundTrip.dfmt (p : List Byte) : ChunkRoundTrip.Statement (.dfmt p) := fun _ => rfl
theorem ChunkRoundTrip.carrier (p : List Byte) : ChunkRoundTrip.Statement (.carrier p) := fun _ => rfl
theorem ChunkRoundTrip.dummy (p : List Byte) : ChunkRoundTrip.Statement (.dummy p) := fun _ => rfl
theorem ChunkRoundTrip.gap (p : List Byte) : ChunkRoundTrip.Statement (.gap p) := fun _ => rfl
theorem ChunkRoundTrip.basefreq (p : List Byte) : ChunkRoundTrip.Statement (.basefreq p) := fun _ => rfl
theorem ChunkRoundTrip.security (p : List Byte) : ChunkRoundTrip.Statement (.security p) := fun _ => rfl
theorem ChunkRoundTrip.phase (p : List Byte) : ChunkRoundTrip.Statement (.phase p) := fun _ => rfl
theorem ChunkRoundTrip.fgap (p : List Byte) : ChunkRoundTrip.Statement (.fgap p) := fun _ => rfl

/-- The unrecognised case: none of the nine tests of the dispatch holds. -/
theorem ChunkRoundTrip.chunk (id : U16) (p : List Byte) : ChunkRoundTrip.Statement (.chunk id p) := by
  intro h
  simp [Instr.wellFormed, recognisedIds] at h
  simp [decodeChunk, Instr.toChunk, Instr.identifier, Instr.payload, h]

end Sys2Proof.Laws
end

