-- ==== Sys2Proof/Tests/Slice0.lean ====
section
/-! SUPPORT. Tests of the model and witnesses of the statements' hypotheses. Expected values come from spec/: the vectors of
95_test_vectors.md, or a hand calculation from the rule named. A theorem `witness_<Statement>` shows concrete values that
meet the hypotheses of the obligation of that name, clause by clause. -/

namespace Sys2Proof.Tests

open Sys2Proof Sys2Proof.Machine Sys2Proof.Statement Host

/-! ### Helpers -/

/-- The machine at reset over a chunk store. -/
def withChunks (chunks : List Chunk) : State := { State.reset with cs := chunks }

/-- DEM at reset over a buffer, in a mode. -/
def demIn (m : DemMode) : Demodulator := { Demodulator.reset with mode := m }

/-- The samples a step leaves in OS. -/
def outOf : Outcome State Fault Refusal → List Sample
  | .next t => t.mod.out
  | .fault _ => []
  | .refused _ => []

/-- The MOD status a step leaves. -/
def statusOf : Outcome State Fault Refusal → Option ModStatus
  | .next t => some t.mod.status
  | .fault _ => none
  | .refused _ => none

/-- The MOD registers a step leaves. -/
def modOf : Outcome State Fault Refusal → Option Modulator
  | .next t => some t.mod
  | .fault _ => none
  | .refused _ => none

/-- A cycle of `l1` negatives and `l2` positives, as section V3 writes them. -/
def wave (l1 l2 : Nat) : List Sample := List.replicate l1 (-1) ++ List.replicate l2 1

/-- Two fast cycles and the sample that ends the last pulse. -/
def twoFast : List Sample := wave 9 9 ++ wave 9 9 ++ [-1]

/-- A slow cycle and the sample that ends its last pulse. -/
def oneSlow : List Sample := wave 18 19 ++ [-1]

/-! ### Well-formedness: each check refuses an ill-formed term -/

theorem payload_too_long (p : List Byte) (h : p.length = 2 ^ 32) : payloadFits p = false := by
  simp [payloadFits, h]

theorem test_wellFormed_data_long (p : List Byte) (h : p.length = 2 ^ 32) : (Instr.data p).wellFormed = false :=
  payload_too_long p h

theorem test_wellFormed_dfmt_long (p : List Byte) (h : p.length = 2 ^ 32) : (Instr.dfmt p).wellFormed = false :=
  payload_too_long p h

theorem test_wellFormed_carrier_long (p : List Byte) (h : p.length = 2 ^ 32) : (Instr.carrier p).wellFormed = false :=
  payload_too_long p h

theorem test_wellFormed_dummy_long (p : List Byte) (h : p.length = 2 ^ 32) : (Instr.dummy p).wellFormed = false :=
  payload_too_long p h

theorem test_wellFormed_gap_long (p : List Byte) (h : p.length = 2 ^ 32) : (Instr.gap p).wellFormed = false :=
  payload_too_long p h

theorem test_wellFormed_basefreq_long (p : List Byte) (h : p.length = 2 ^ 32) : (Instr.basefreq p).wellFormed = false :=
  payload_too_long p h

theorem test_wellFormed_security_long (p : List Byte) (h : p.length = 2 ^ 32) : (Instr.security p).wellFormed = false :=
  payload_too_long p h

theorem test_wellFormed_phase_long (p : List Byte) (h : p.length = 2 ^ 32) : (Instr.phase p).wellFormed = false :=
  payload_too_long p h

theorem test_wellFormed_fgap_long (p : List Byte) (h : p.length = 2 ^ 32) : (Instr.fgap p).wellFormed = false :=
  payload_too_long p h

theorem test_wellFormed_chunk_long (p : List Byte) (h : p.length = 2 ^ 32) :
    (Instr.chunk 0x0120 p).wellFormed = false := by
  simp [Instr.wellFormed, payload_too_long p h]

theorem witness_long_payload : ∃ p : List Byte, p.length = 2 ^ 32 :=
  ⟨List.replicate (2 ^ 32) 0, List.length_replicate⟩

/-- Each of the nine recognised identifiers is refused in the unrecognised case (R83, R97). -/
theorem test_wellFormed_chunk_recognised :
    (recognisedIds.map fun id => (Instr.chunk id []).wellFormed) = List.replicate 9 false := by decide

/-! ### Decoding: one record of every constructor, its bytes written out from R81, R83 -/

theorem test_decode_data : decode [0x00, 0x01, 0x01, 0x00, 0x00, 0x00, 0x41] = .instr (.data [0x41]) [] := by decide

theorem test_decode_dfmt :
    decode [0x04, 0x01, 0x04, 0x00, 0x00, 0x00, 0x07, 0x45, 0xFF, 0x41] = .instr (.dfmt [0x07, 0x45, 0xFF, 0x41]) [] := by
  decide

theorem test_decode_carrier :
    decode [0x10, 0x01, 0x02, 0x00, 0x00, 0x00, 0x14, 0x00, 0x99] = .instr (.carrier [0x14, 0x00]) [0x99] := by decide

theorem test_decode_dummy :
    decode [0x11, 0x01, 0x04, 0x00, 0x00, 0x00, 0x01, 0x00, 0x02, 0x00] = .instr (.dummy [0x01, 0x00, 0x02, 0x00]) [] := by
  decide

theorem test_decode_gap :
    decode [0x12, 0x01, 0x02, 0x00, 0x00, 0x00, 0x0A, 0x00] = .instr (.gap [0x0A, 0x00]) [] := by decide

theorem test_decode_basefreq :
    decode [0x13, 0x01, 0x04, 0x00, 0x00, 0x00, 0x00, 0x00, 0x16, 0x44]
      = .instr (.basefreq [0x00, 0x00, 0x16, 0x44]) [] := by decide

theorem test_decode_security :
    decode [0x14, 0x01, 0x05, 0x00, 0x00, 0x00, 0x03, 0x00, 0x43, 0x43, 0xA0]
      = .instr (.security [0x03, 0x00, 0x43, 0x43, 0xA0]) [] := by decide

theorem test_decode_phase :
    decode [0x15, 0x01, 0x02, 0x00, 0x00, 0x00, 0x5A, 0x00] = .instr (.phase [0x5A, 0x00]) [] := by decide

theorem test_decode_fgap :
    decode [0x16, 0x01, 0x04, 0x00, 0x00, 0x00, 0x0A, 0xD7, 0x23, 0x3C]
      = .instr (.fgap [0x0A, 0xD7, 0x23, 0x3C]) [] := by decide

theorem test_decode_chunk :
    decode [0x20, 0x01, 0x03, 0x00, 0x00, 0x00, 0x01, 0x02, 0x03] = .instr (.chunk 0x0120 [0x01, 0x02, 0x03]) [] := by
  decide

/-- All 16 bits of the identifier are matched: 0x8110 and 0x0010 are not 0x0110 (R83). -/
theorem test_decode_all_bits :
    decode [0x10, 0x81, 0, 0, 0, 0] = .instr (.chunk 0x8110 []) []
      ∧ decode [0x10, 0x00, 0, 0, 0, 0] = .instr (.chunk 0x0010 []) [] := by decide

/-- The three cuts of R100, each refused by its name, and the clean end. -/
theorem test_decode_cuts :
    decode [] = .endOfChunks ∧ decode [0x13] = .rejected .truncatedIdentifier
      ∧ decode [0x13, 0x01] = .rejected .truncatedLength ∧ decode [0x13, 0x01, 4, 0, 0] = .rejected .truncatedLength
      ∧ decode [0x13, 0x01, 4, 0, 0, 0, 1, 2, 3] = .rejected .truncatedPayload := by decide

theorem test_decodeTableWord :
    decodeTableWord 16 0x0110 = some (.carrier []) ∧ decodeTableWord 16 0 = some (.chunk 0 [])
      ∧ decodeTableWord 64 0x0014000000020110 = some (.carrier [0x14, 0x00]) := by decide

/-- The word placed by `withFetchWord` is what the step runs: `phase` with no payload faults at chunk 0. -/
theorem test_withFetchWord :
    statusOf (step (State.reset.withFetchWord 16 0x0115)) = some (.faulted .malformedChunk 0) := by decide +kernel

/-! ### Chunks: the vectors of 95 V5, and 4800 Hz, where a slow cycle has four samples and a fast one two -/

/-- At 4800 Hz a slow cycle is `0, -A, 0, A` and a fast one `0, 0` (R122, R126). -/
def coarse (depth : Depth) : State := { State.reset with cfg := { rate := 4800, depth := depth, secCount := .intent } }

theorem test_data_length : (outOf (exec (.data [0x41]) State.reset)).length = 367 := by decide +kernel

theorem test_data_frame : outOf (exec (.data [0xFD]) (coarse .d8))
    = [0, -127, 0, 127] ++ [0, 0, 0, 0] ++ [0, -127, 0, 127] ++ List.replicate 24 0 ++ List.replicate 4 0 := by
  decide +kernel

theorem test_dfmt_lengths :
    ([[7, 0x45, 0xFF, 0x41], [7, 0x4F, 0xFF, 0x41], [8, 0x4E, 2, 0x41], [8, 0x4E, 0, 0x41], [0, 0x4E, 1, 0x41],
      [10, 0x45, 1, 0xFF], [8, 0x58, 1, 0x41], [8, 0x4E, 0xFD, 0x41], [8, 0x4E, 1]].map fun p =>
        (outOf (exec (.dfmt p) State.reset)).length) = [385, 384, 403, 331, 73, 472, 367, 457, 0] := by decide +kernel

theorem test_dfmt_short : modOf (exec (.dfmt [0x08, 0x4E]) State.reset)
    = some { Modulator.reset with status := .faulted .malformedChunk 0 } := by decide +kernel

theorem test_carrier_samples : (outOf (exec (.carrier [20, 0]) State.reset)).length = 360
    ∧ (outOf (exec (.carrier [20, 0]) State.reset)).take 4 = [0, -11207, -21062, -28377] := by decide +kernel

theorem test_carrier_short : modOf (exec (.carrier [5]) State.reset)
    = some { Modulator.reset with status := .faulted .malformedChunk 0 } := by decide +kernel

theorem test_dummy_lengths :
    ([[2, 0, 3, 0], [0, 0, 0, 0], [1, 0, 2, 0]].map fun p => (outOf (exec (.dummy p) State.reset)).length)
      = [455, 365, 419] := by decide +kernel

theorem test_dummy_byte : outOf (exec (.dummy [1, 0, 0, 0]) (coarse .d8))
    = [0, 0] ++ [0, -127, 0, 127] ++ [0, -127, 0, 127] ++ [0, 0, 0, 0] ++ [0, -127, 0, 127] ++ [0, 0, 0, 0]
      ++ [0, -127, 0, 127] ++ [0, 0, 0, 0] ++ [0, -127, 0, 127] ++ [0, 0, 0, 0] ++ [0, 0, 0, 0] := by decide +kernel

theorem test_gap_silence : outOf (exec (.gap [3, 0]) State.reset) = List.replicate 54 0 := by decide +kernel

theorem test_gap_short : statusOf (exec (.gap []) State.reset) = some (.faulted .malformedChunk 0) := by decide +kernel

theorem test_basefreq_write : modOf (exec (.basefreq [0x00, 0x00, 0x16, 0x44]) State.reset)
    = some { Modulator.reset with baseFrequency := 600, cp := 1 } := by decide +kernel

theorem test_basefreq_faults :
    ([[0, 0, 0], [0, 0, 0, 0], [0, 0, 0, 0x80], [0, 0, 0x96, 0xC4], [0, 0, 0xC0, 0x7F], [0, 0, 0x80, 0x7F]].map fun p =>
        statusOf (exec (.basefreq p) State.reset))
      = [some (.faulted .malformedChunk 0), some (.faulted .invalidValue 0), some (.faulted .invalidValue 0),
        some (.faulted .invalidValue 0), some (.faulted .invalidValue 0), some (.faulted .invalidValue 0)] := by
  decide +kernel

theorem test_security_lengths :
    ([[3, 0, 0x43, 0x43, 0xA0], [2, 0, 0x50, 0x50, 0x40], [1, 0, 0x50, 0x50, 0x80], [0, 0, 0x43, 0x43],
      [9, 0, 0x43, 0x43, 0xFF, 0x80]].map fun p => (outOf (exec (.security p) State.reset)).length)
      = [73, 27, 9, 0, 162] := by decide +kernel

/-- Two bits 0, 1 with both end pulses: the high half of the slow cycle, then the low half of the fast one (V5.1); and
9 bits need 2 bytes (V5.2). -/
theorem test_security_pulses :
    (outOf (exec (.security [2, 0, 0x50, 0x50, 0x40]) State.reset)).take 2 = [2779, 8257]
      ∧ (outOf (exec (.security [2, 0, 0x50, 0x50, 0x40]) State.reset)).drop 25 = [-21062, -11207]
      ∧ statusOf (exec (.security [9, 0, 0x43, 0x43, 0xFF]) State.reset) = some (.faulted .malformedChunk 0) := by
  decide +kernel

theorem test_phase_write : modOf (exec (.phase [0x5A, 0x00]) State.reset)
    = some { Modulator.reset with phase := 90, cp := 1 } := by decide +kernel

theorem test_phase_short : statusOf (exec (.phase [0x5A]) State.reset) = some (.faulted .malformedChunk 0) := by
  decide +kernel

theorem test_fgap_lengths :
    ([[0x0A, 0xD7, 0x23, 0x3C], [0, 0, 0, 0], [0, 0, 0x80, 0xBF], [0xAC, 0xC5, 0x27, 0x37]].map fun p =>
        (outOf (exec (.fgap p) State.reset)).length) = [441, 0, 0, 0] := by decide +kernel

theorem test_fgap_faults :
    ([[0, 0, 0x80, 0x7F], [0, 0, 0xC0, 0x7F], [0, 0]].map fun p => statusOf (exec (.fgap p) State.reset))
      = [some (.faulted .invalidValue 0), some (.faulted .invalidValue 0), some (.faulted .malformedChunk 0)] := by
  decide +kernel

theorem test_chunk_ignored : modOf (exec (.chunk 0x0120 [1, 2, 3]) State.reset)
    = some { Modulator.reset with ignored := [0x0120], cp := 1 } := by decide +kernel

/-! ### Primitives: 95 V1, V2, V3, V6 -/

theorem test_samplesPerCycle :
    ([1200, 2400, 600, 2520, 1800, 1176, 29400, 88199, 88200].map fun f : ℚ => samplesPerCycle 44100 f)
      = [37, 18, 74, 18, 24, 38, 2, 1, 0] := by decide +kernel

theorem test_sineq :
    [sineq 32767 30 0 18, sineq 127 210 0 18, sineq 32767 90 0 18, sineq 32767 540 1 18, sineq 32767 180 18 37,
      sineq 32767 180 19 37, sineq 1 180 1 4, sineq 3 30 0 1] = [16384, -64, 32767, -11207, -2779, 2779, -1, 2] := by
  decide +kernel

theorem test_readPulse :
    readPulse [0, 0, -5, -3, 0, 4] 0 = .pulse (-1) 5 5 ∧ readPulse [0, 0, -5, -3, 0, 4] 5 = .pulse 1 1 6
      ∧ readPulse [-1, 0, 0, 2] 0 = .pulse (-1) 2 2 ∧ readPulse [-1, 0, 0, 2] 2 = .pulse 1 2 4
      ∧ readPulse [-1, -2, 3] 0 = .pulse (-1) 2 2 ∧ readPulse [0, 0, 0] 0 = .endOfStream
      ∧ readPulse [3, 3, -1] 3 = .endOfStream := by decide

theorem test_classifyCycle :
    (([(9, 9, 2400), (8, 8, 2400), (8, 7, 2400), (12, 11, 2400), (12, 12, 2400), (32, 31, 1200), (32, 32, 1200),
      (13, 13, 1200), (12, 13, 1200), (8, 5, 2400), (9, 5, 2400), (20, 5, 2400)] : List (Nat × Nat × Nat)).map fun c =>
        classifyCycle (wave c.1 c.2.1 ++ [-1]) 0 c.2.2)
      = [.ok 9 9 18, .ok 8 8 16, .frequencyMismatch, .ok 12 11 23, .frequencyMismatch, .ok 32 31 63, .frequencyMismatch,
        .ok 13 13 26, .frequencyMismatch, .frequencyMismatch, .ratioMismatch, .ratioMismatch] := by decide +kernel

theorem test_classifyCycle_others :
    classifyCycle [-1, 0, -1, 0, 1] 0 2400 = .phaseMismatch ∧ classifyCycle [-1, -1, 0, 0] 0 2400 = .endOfStream := by
  decide

theorem test_gapSeconds : [1, 200, 441, 882, 44100, 88200].map gapSeconds
    = [0x373E37C6, 0x3B149B93, 0x3BA3D70A, 0x3C23D70A, 0x3F000000, 0x3F800000] := by decide +kernel

/-- Program P4 in the syntax of R103: its `dfmt` line, with a signed operand and a comment. -/
theorem test_assemble :
    assemble "dfmt 7, 'E', -1, 0x41 ; P4\nchunk 0x0120, 1".toList
      = some [{ id := 0x0104, payload := [0x07, 0x45, 0xFF, 0x41] }, { id := 0x0120, payload := [0x01] }] := by
  decide +kernel

/-! ### DEM: a silent buffer is one Gap; the end of a byte -/

/-- Three zeros: `Sync` finds no pulse, and one Gap covers the buffer (R208, R221). -/
theorem test_dem_silence :
    demodulate [0, 0, 0] = { chunks := [gapChunk 3], spans := [(0, 3)], skipped := [] } := by decide +kernel

/-- What `modulate` returns of P5: the samples of `carrier 5`, and the exception with the identifier and the index of the
faulting chunk (R178, R260, R268). -/
theorem test_modulate_fault :
    let m := modulate [{ id := 0x0110, payload := [5, 0] }, { id := 0x0113, payload := [0, 0, 0, 0] },
      { id := 0x0110, payload := [5, 0] }] (canonical .d16 .intent)
    m.stream.length = 180 ∧ m.ignored = [] ∧ m.exception = some (.invalidValue, some 0x0113, 1) := by decide +kernel

/-- The stored bytes of a sample: the low byte first, and the value plus 127 (R56). -/
theorem test_storeSample : storeSample .d16 (-2) = [0xFE, 0xFF] ∧ storeSample .d8 (-127) = [0] ∧ storeSample .d8 0 = [127] := by
  decide

/-- The eighth bit, a 1, of a byte whose first seven were 0x41 (R217, R218). -/
theorem test_dem_eighth_bit :
    demStep twoFast { demIn .byte with acc := 0x41, bitIdx := 7, gapPending := false }
      = { demIn .stopBit with
            acc := 0xC1, bitIdx := 8, gapPending := false, pos := 36, boundary := 36
            out := [{ chunk := { id := 0x0100, payload := [0xC1] }, start := 0, stop := 36 }] } := by decide +kernel

/-! ### Witnesses -/

theorem witness_DecodeOfEncodeIsIdentity :
    (Instr.carrier [0x14, 0x00]).wellFormed = true ∧ (Instr.chunk 0x0120 []).wellFormed = true := by decide

theorem witness_RecordHasOneMeaning :
    decode [0x10, 0x01, 0x02, 0x00, 0x00, 0x00, 0x14, 0x00, 0x99] = .instr (.carrier [0x14, 0x00]) [0x99] := by decide

/-- Cuts after the first byte and before the last of the second record. -/
theorem witness_ContainerKeepsWholeRecords :
    let c : Chunk := { id := 0x0115, payload := [0x5A, 0x00] }
    (∀ x ∈ [c], payloadFits x.payload = true) ∧ payloadFits c.payload = true
      ∧ 0 < 1 ∧ 1 < (encodeChunk c).length ∧ 0 < 7 ∧ 7 < (encodeChunk c).length := by decide

theorem witness_WrongMagicIsRefused :
    ([] : List Byte).take 10 ≠ [0x55, 0x45, 0x46, 0x20, 0x46, 0x69, 0x6C, 0x65, 0x21, 0x00] := by decide

/-- The ends of both ranges; the last whole pair of five bytes. -/
theorem witness_StoredFormRoundTrip :
    (∀ x ∈ [32767, -32767, 0, 1], inRange .d16 x) ∧ (∀ x ∈ [127, -127, 0, 1], inRange .d8 x)
      ∧ 2 * 1 + 1 < ([1, 2, 0xFF, 0xFF, 9] : List Byte).length := by decide

/-- An in-range stream; another rate, and another width; no bytes at all, and a header with two channels. -/
theorem witness_WavRoundTrip :
    (∀ x ∈ [32767, -32767], inRange .d16 x) ∧ 36 + (storeSamples .d16 [32767, -32767]).length < 2 ^ 32
      ∧ ((48000 : ℚ) ≠ 44100 ∨ (16 ≠ 8 ∧ 16 ≠ 16)) ∧ ((44100 : ℚ) ≠ 44100 ∨ (24 ≠ 8 ∧ 24 ≠ 16))
      ∧ u16At [] 20 ≠ 1 ∧ u16At ((wavBytes .d8 []).set 22 2) 22 ≠ 1 :=
  ⟨by decide, by decide, .inl (by norm_num), .inr (by decide), by decide, by decide⟩

/-- MOD: with its turn, and with DEM's turn once DEM is done. DEM: with its turn, and with MOD's turn once MOD is done. -/
theorem witness_StepRunsDecodedChunk :
    let c : Chunk := { id := 0x0110, payload := [0x14, 0x00] }
    let s := withChunks [c]
    let u := { s with active := .dem, dem := demIn .done }
    let v : State := { s with active := .dem }
    let w : State := { s with mod := { Modulator.reset with status := .done } }
    (s.mod.status = .running ∧ (s.active = .mod ∨ s.dem.mode = .done) ∧ s.cs[s.mod.cp]? = some c
        ∧ decodeChunk c = .carrier [0x14, 0x00])
      ∧ (u.mod.status = .running ∧ (u.active = .mod ∨ u.dem.mode = .done) ∧ u.cs[u.mod.cp]? = some c)
      ∧ (v.dem.mode ≠ .done ∧ (v.active = .dem ∨ v.mod.status ≠ .running))
      ∧ w.dem.mode ≠ .done ∧ (w.active = .dem ∨ w.mod.status ≠ .running) := by decide

theorem witness_RunEndsAtLastChunk :
    State.reset.mod.status = .running ∧ (State.reset.active = .mod ∨ State.reset.dem.mode = .done)
      ∧ State.reset.mod.cp = State.reset.cs.length := by decide

/-- MOD done and DEM running; DEM done and MOD running; both done. -/
theorem witness_StoppedUnitsStayStopped :
    let s : State := { State.reset with mod := { Modulator.reset with status := .done } }
    let u : State := { State.reset with dem := demIn .done }
    let v : State := { s with dem := demIn .done }
    ((∃ t, step s = .next t) ∧ s.mod.status ≠ .running) ∧ ((∃ t, step u = .next t) ∧ u.dem.mode = .done)
      ∧ v.mod.status ≠ .running ∧ v.dem.mode = .done :=
  ⟨⟨⟨_, rfl⟩, by decide⟩, ⟨⟨_, rfl⟩, rfl⟩, by decide, rfl⟩

theorem witness_StepMovesOneUnit : ∃ t, step State.reset = .next t := ⟨_, rfl⟩

theorem witness_ModDependsOnItsOwnStateOnly :
    let u : State := { State.reset with ib := [1], active := .dem, dem := demIn .carrier }
    u.cfg = State.reset.cfg ∧ u.cs = State.reset.cs ∧ u.mod = State.reset.mod ∧ ∃ t, stepMod State.reset = .next t :=
  ⟨rfl, rfl, rfl, _, rfl⟩

theorem witness_DfmtFramesAsConfigured : ([0x08, 0x4E] : List Byte).length < 3 := by decide

theorem witness_CarrierEmitsFastCycles : 2 ≤ ([5, 0] : List Byte).length ∧ ([5] : List Byte).length < 2 := by decide

theorem witness_DummyEmitsFramedByteBetweenTones :
    4 ≤ ([1, 0, 2, 0] : List Byte).length ∧ ([1, 0, 1] : List Byte).length < 4 := by decide

theorem witness_GapEmitsSilenceAtFastRate : 2 ≤ ([3, 0] : List Byte).length ∧ ([3] : List Byte).length < 2 := by decide

theorem value_600 : f32Value (f32At0 [0x00, 0x00, 0x16, 0x44]) = .finite 600 := by decide +kernel

theorem value_zero : f32Value (f32At0 [0, 0, 0, 0]) = .finite 0 := by decide +kernel

theorem value_nan : f32Value (f32At0 [0, 0, 0xC0, 0x7F]) = .nan := by decide +kernel

/-- 600 Hz; then a zero and a NaN; then three bytes. -/
theorem witness_BasefreqWritesOrRaises :
    (4 ≤ ([0x00, 0x00, 0x16, 0x44] : List Byte).length ∧ f32Value (f32At0 [0x00, 0x00, 0x16, 0x44]) = .finite 600
        ∧ (0 : ℚ) < 600)
      ∧ (∀ f : ℚ, f32Value (f32At0 [0, 0, 0, 0]) = .finite f → f ≤ 0)
      ∧ (∀ f : ℚ, f32Value (f32At0 [0, 0, 0xC0, 0x7F]) = .finite f → f ≤ 0) ∧ ([0, 0, 0] : List Byte).length < 4 := by
  refine ⟨⟨by decide, value_600, by norm_num⟩, fun f h => ?_, fun f h => ?_, by decide⟩
  · rw [value_zero] at h
    cases h
    exact le_refl _
  · rw [value_nan] at h
    cases h

/-- Eight bits in one byte fit, nine do not; by the `SOURCE` formula 0x01 0x01 counts 512 bits. -/
theorem witness_SecurityRendersABitEach :
    (((8 : Byte).toNat + 256 * (0 : Byte).toNat + 7) / 8 ≤ ([0xFF] : List Byte).length
        ∧ ([0xFF] : List Byte).length < ((9 : Byte).toNat + 256 * (0 : Byte).toNat + 7) / 8)
      ∧ ((1 : Byte).toNat * 2 ^ (8 + (1 : Byte).toNat) + 7) / 8 = 64 ∧ ([1, 0, 0x43] : List Byte).length < 4 := by decide

theorem witness_PhaseIsWrittenUnreduced : 2 ≤ ([0x5A, 0] : List Byte).length ∧ ([0x5A] : List Byte).length < 2 := by decide

/-- Zero seconds, 600 seconds, a NaN, and two bytes, at 44100 Hz. -/
theorem witness_FgapEmitsRoundedSilence :
    0 < State.reset.cfg.rate ∧ (f32Value (f32At0 [0, 0, 0, 0]) = .finite 0 ∧ (0 : ℚ) ≤ 0)
      ∧ (f32Value (f32At0 [0x00, 0x00, 0x16, 0x44]) = .finite 600 ∧ (0 : ℚ) < 600)
      ∧ (4 ≤ ([0, 0, 0xC0, 0x7F] : List Byte).length ∧ ∀ sec : ℚ, f32Value (f32At0 [0, 0, 0xC0, 0x7F]) ≠ .finite sec)
      ∧ ([0, 0] : List Byte).length < 4 := by
  refine ⟨by decide +kernel, ⟨value_zero, le_refl _⟩, ⟨value_600, by norm_num⟩, ⟨by decide, fun sec => ?_⟩, by decide⟩
  rw [value_nan]
  exact F32Value.noConfusion

theorem witness_UnrecognisedIsRecorded : (0x0120 : U16) ∉ recognisedIds := by decide

theorem witness_ChunkFrame : ∃ t, exec (.carrier [1, 0]) State.reset = .next t := ⟨_, rfl⟩

theorem value_eighth : f32Value (f32At0 [0, 0, 0, 0x3E]) = .finite (1 / 8) := by decide +kernel

/-- Every chunk completes at reset, two more carry a finite number of seconds, of which 1/8 is half-way between two counts,
and a short payload changes the status. -/
theorem witness_SampleCounts :
    (∃ t, exec (.data [0x41]) State.reset = .next t) ∧ (∃ t, exec (.dfmt [7, 0x45, 0xFF, 0x41]) State.reset = .next t)
      ∧ (∃ t, exec (.carrier [1, 0]) State.reset = .next t) ∧ (∃ t, exec (.gap [1, 0]) State.reset = .next t)
      ∧ (∃ t, exec (.dummy [1, 0, 2, 0]) State.reset = .next t)
      ∧ ((8 + 7) / 8 ≤ ([0xA0] : List Byte).length ∧ ∃ t, exec (.security [8, 0, 0x50, 0x50, 0xA0]) State.reset = .next t)
      ∧ ((∃ t, exec (.fgap [0, 0, 0, 0x3E]) State.reset = .next t) ∧ (0 : ℚ) < 1 / 8 ∧ 0 < State.reset.cfg.rate
        ∧ |(1 / 8 : ℚ) * 44100 - (5512 : Nat)| = 1 / 2)
      ∧ (f32Value (f32At0 [0, 0, 0, 0]) = .finite 0 ∧ ∃ t, exec (.fgap [0, 0, 0, 0]) State.reset = .next t)
      ∧ (∃ t, exec (.phase [1, 0]) State.reset = .next t) ∧ (∃ t, exec (.chunk 0x0120 []) State.reset = .next t)
      ∧ ∃ t, exec (.carrier [1]) State.reset = .next t ∧ t.mod.status ≠ State.reset.mod.status := by
  refine ⟨⟨_, rfl⟩, ⟨_, rfl⟩, ⟨_, rfl⟩, ⟨_, rfl⟩, ⟨_, rfl⟩, ⟨by decide, _, rfl⟩, ⟨⟨_, rfl⟩, by norm_num, by decide +kernel, ?_⟩,
    ⟨value_zero, _, rfl⟩, ⟨_, rfl⟩, ⟨_, rfl⟩, _, rfl, by decide⟩
  rw [abs_of_nonneg] <;> norm_num

/-- The tie 17.5, which goes to 18. -/
theorem witness_CycleLengthIsNearestEven :
    (0 : ℚ) < 44100 ∧ (0 : ℚ) < 2520 ∧ |(44100 : ℚ) / 2520 - 18| = 1 / 2 := by norm_num

theorem witness_CycleIsEmptyAtHighFrequency :
    (0 : ℚ) < 44100 ∧ (0 : ℚ) < 88200 ∧ (44100 : ℚ) / 88200 ≤ 1 / 2 ∧ ¬(44100 : ℚ) / 88199 ≤ 1 / 2 := by norm_num

theorem witness_SineIsRoundedExactly : 0 < 18 := by decide

theorem witness_CycleBeginsWithNegativeHalf :
    0 < 18 ∧ (9 < 18 ∧ 2 * 9 = 18) ∧ (0 < 1 ∧ 2 * 1 < 18) ∧ (0 < 8 ∧ 2 * 8 < 18) ∧ (10 < 18 ∧ 18 < 2 * 10) := by decide

/-- The least and greatest normal exponent, a subnormal, an infinity and a NaN. -/
theorem witness_Binary32Value :
    ((0x00800000 : U32).toNat / 2 ^ 23 % 256 = 1) ∧ ((0x7F7FFFFF : U32).toNat / 2 ^ 23 % 256 = 254)
      ∧ ((0x80000001 : U32).toNat / 2 ^ 23 % 256 = 0)
      ∧ ((0xFF800000 : U32).toNat / 2 ^ 23 % 256 = 255 ∧ (0xFF800000 : U32).toNat % 2 ^ 23 = 0)
      ∧ ((0x7FC00000 : U32).toNat / 2 ^ 23 % 256 = 255 ∧ (0x7FC00000 : U32).toNat % 2 ^ 23 ≠ 0) := by decide

/-- `2^24 + 1` is half-way between two binary32 values; the even one, `2^24`, is taken, and the other is as near; the same
below zero. The last ratios are on either side of the bound past which the result is infinite. -/
theorem witness_NearestBinary32 :
    (0 < 1 ∧ f32Value (f32NearestRatio (2 ^ 24 + 1) 1) = .finite 16777216 ∧ f32Value 0x4B800001 = .finite 16777218
        ∧ |((2 ^ 24 + 1 : Nat) : ℚ) / (1 : Nat) - 16777216| = |((2 ^ 24 + 1 : Nat) : ℚ) / (1 : Nat) - 16777218|
        ∧ (16777218 : ℚ) ≠ 16777216)
      ∧ (f32Value (f32Nearest (-16777217)) = .finite (-16777216) ∧ f32Value 0xCB800001 = .finite (-16777218)
        ∧ |(-16777217 : ℚ) - -16777216| = |(-16777217 : ℚ) - -16777218|)
      ∧ f32NearestRatio (2 ^ 128 - 2 ^ 103 - 1) 1 = 0x7F7FFFFF ∧ f32NearestRatio (2 ^ 128 - 2 ^ 103) 1 = 0x7F800000 := by
  refine ⟨⟨by decide, by decide +kernel, by decide +kernel, by norm_num, by norm_num⟩,
    ⟨by decide +kernel, by decide +kernel, by norm_num⟩, by decide +kernel, by decide +kernel⟩

theorem witness_PulseShape :
    readPulse [0, 0, -5, -3, 0, 4] 0 = .pulse (-1) 5 5 ∧ readPulse [0, 0, 0] 0 = .endOfStream := by decide

/-- Each case: no first pulse, no second pulse, equal signs, a ratio of 9 to 5, 24 samples, and 23 samples. -/
theorem witness_ChecksRunInOrder :
    readPulse [0] 0 = .endOfStream
      ∧ (readPulse [-1, 0] 0 = .pulse (-1) 2 2 ∧ readPulse [-1, 0] 2 = .endOfStream)
      ∧ (readPulse [-1, 0, -1] 0 = .pulse (-1) 2 2 ∧ readPulse [-1, 0, -1] 2 = .pulse (-1) 1 3)
      ∧ (readPulse (wave 9 5) 0 = .pulse (-1) 9 9 ∧ readPulse (wave 9 5) 9 = .pulse 1 5 14 ∧ 5 * max 9 5 > 8 * min 9 5)
      ∧ (readPulse (wave 12 12) 0 = .pulse (-1) 12 12 ∧ readPulse (wave 12 12) 12 = .pulse 1 12 24
        ∧ ¬5 * max 12 12 > 8 * min 12 12 ∧ |(44100 : Int) - 2400 * (12 + 12)| > 500 * (12 + 12))
      ∧ (readPulse (wave 12 11) 0 = .pulse (-1) 12 12 ∧ readPulse (wave 12 11) 12 = .pulse 1 11 23
        ∧ ¬5 * max 12 11 > 8 * min 12 11 ∧ ¬|(44100 : Int) - 2400 * (12 + 11)| > 500 * (12 + 11)) := by
  decide +kernel

theorem witness_AcceptanceWindows : (-1 : Int) ≠ 1 ∧ 5 * max 8 8 ≤ 8 * min 8 8 ∧ 5 * max 8 5 ≤ 8 * min 8 5
    ∧ 5 * max 32 31 ≤ 8 * min 32 31 := by decide

/-- A negative pulse of 8 samples, one of 7, and no pulse. -/
theorem witness_SyncStep :
    (demIn .sync).mode = .sync ∧ readPulse (wave 8 1) 0 = .pulse (-1) 8 8 ∧ readPulse (wave 7 1) 0 = .pulse (-1) 7 7
      ∧ readPulse [0] 0 = .endOfStream := by decide

theorem notOk_of {r : CycleResult} (h : (match r with | .ok _ _ _ => false | _ => true) = true) :
    ∀ l1 l2 next : Nat, r ≠ .ok l1 l2 next := by
  rintro l1 l2 next rfl
  cases h

/-- A fast cycle; the end of the stream; a slow cycle, after 19 cycles and after 18. -/
theorem witness_CarrierStep :
    (demIn .carrier).mode = .carrier ∧ classifyCycle twoFast 0 2400 = .ok 9 9 18
      ∧ classifyCycle [-1] 0 2400 = .endOfStream
      ∧ (∀ l1 l2 next : Nat, classifyCycle oneSlow 0 2400 ≠ .ok l1 l2 next)
      ∧ classifyCycle oneSlow 0 2400 ≠ .endOfStream ∧ 19 ≤ ({ demIn .carrier with c := 19 } : Demodulator).c
      ∧ ¬19 ≤ ({ demIn .carrier with c := 18 } : Demodulator).c :=
  ⟨rfl, by decide +kernel, by decide, notOk_of (by decide +kernel), by decide +kernel, by decide, by decide⟩

/-- A slow cycle; the end of the stream; a fast cycle, a cycle of 15 samples, after a stop bit and after a carrier. -/
theorem witness_StartBitStep :
    (demIn .startBit).mode = .startBit ∧ classifyCycle oneSlow 0 1200 = .ok 18 19 37
      ∧ classifyCycle [-1] 0 1200 = .endOfStream
      ∧ ((∀ l1 l2 next : Nat, classifyCycle twoFast 0 1200 ≠ .ok l1 l2 next)
        ∧ classifyCycle twoFast 0 1200 ≠ .endOfStream ∧ classifyCycle twoFast 0 2400 = .ok 9 9 18)
      ∧ ((∀ l1 l2 next : Nat, classifyCycle (wave 8 7) 0 1200 ≠ .ok l1 l2 next)
        ∧ classifyCycle (wave 8 7) 0 1200 ≠ .endOfStream
        ∧ (∀ l1 l2 next : Nat, classifyCycle (wave 8 7) 0 2400 ≠ .ok l1 l2 next)
        ∧ classifyCycle (wave 8 7) 0 2400 ≠ .endOfStream)
      ∧ ({ demIn .startBit with origin := .stopBit } : Demodulator).origin = .stopBit
      ∧ (({ demIn .startBit with origin := .carrier } : Demodulator).origin = .carrier
        ∨ ({ demIn .startBit with origin := .carrier } : Demodulator).origin = .short) :=
  ⟨rfl, by decide +kernel, by decide, ⟨notOk_of (by decide +kernel), by decide +kernel, by decide +kernel⟩,
    ⟨notOk_of (by decide +kernel), by decide +kernel, notOk_of (by decide +kernel), by decide +kernel⟩, rfl, .inl rfl⟩

/-- A 0 and a 1, with seven bits read and with six; a cycle of 15 samples; the end of the stream; a last chunk that is
Data and one that is not. -/
theorem witness_ByteStep :
    (demIn .byte).mode = .byte ∧ readBit oneSlow 0 = .bit false 37 ∧ readBit twoFast 0 = .bit true 36
      ∧ readBit (wave 8 7) 0 = .fail ∧ readBit [-1] 0 = .endOfStream
      ∧ ({ demIn .byte with bitIdx := 7 } : Demodulator).bitIdx = 7
      ∧ ({ demIn .byte with bitIdx := 6 } : Demodulator).bitIdx ≠ 7
      ∧ (∀ e, [(⟨dataChunk [1], 0, 9⟩ : Emitted)].getLast? = some e → e.chunk.id = 0x0100)
      ∧ ∀ e, [(⟨carrierChunk 19, 0, 9⟩ : Emitted)].getLast? = some e → e.chunk.id ≠ 0x0100 := by
  refine ⟨rfl, by decide +kernel, by decide +kernel, by decide +kernel, by decide, rfl, by decide, ?_, ?_⟩
  · rintro e ⟨⟩
    rfl
  · rintro e ⟨⟩
    decide

theorem witness_StopBitStep :
    ({ demIn .stopBit with out := [⟨dataChunk [1], 0, 9⟩] } : Demodulator).mode = .stopBit
      ∧ ({ demIn .stopBit with out := [⟨dataChunk [1], 0, 9⟩] } : Demodulator).out.getLast? = some ⟨dataChunk [1], 0, 9⟩
      ∧ readStop twoFast 0 = .stop 36 ∧ readStop oneSlow 0 = .fail ∧ readStop [-1] 0 = .endOfStream :=
  ⟨rfl, rfl, by decide +kernel, by decide +kernel, by decide⟩

theorem witness_FailureResumes :
    Demodulator.reset.gapPending = true ∧ ({ Demodulator.reset with gapPending := false } : Demodulator).gapPending = false :=
  ⟨rfl, rfl⟩

/-- A run of 19 cycles; a run of 18; another mode. -/
theorem witness_EndOfStreamCloses :
    (({ demIn .carrier with c := 19 } : Demodulator).mode = .carrier ∧ 19 ≤ ({ demIn .carrier with c := 19 } : Demodulator).c)
      ∧ ({ demIn .carrier with c := 18 } : Demodulator).c < 19 ∧ (demIn .byte).mode ≠ .carrier := by decide

theorem witness_CarrierSplitKeepsTheTotal :
    65535 ≤ 65535 ∧ 0 < 65536 ∧ carrierCounts 65536 = [65535, 1] ∧ carrierCounts 131070 = [65535, 65535] := by
  decide +kernel

/-- The greatest `k`, and one whose quotient is half-way between two binary32 values. -/
theorem witness_GapAndCarrierMeasures : 2 ^ 100 - 1 < 2 ^ 100 ∧ 11025 * (2 ^ 24 + 1) < 2 ^ 100
    ∧ f32Value (gapSeconds (11025 * (2 ^ 24 + 1))) = .finite 2097152
    ∧ f32Value 0x4A000001 = .finite (8388609 / 4) :=
  ⟨by norm_num, by norm_num, by decide +kernel, by decide +kernel⟩

/-- Digits 0, 9 and 15; a text that parses; the ends of a signed byte. -/
theorem witness_ShorthandsExpandToOneChunk :
    (([0, 9] : List Nat) ≠ [] ∧ ∀ d ∈ ([0, 9] : List Nat), d < 10) ∧ (∀ d ∈ ([0, 15] : List Nat), d < 16)
      ∧ (∀ d ∈ ([0] ++ [0, 1] : List Nat), d < 10) ∧ ((-128 : Int) ≤ -128 ∧ (127 : Int) < 128)
      ∧ parseProgram "carrier 20\n; comment".toList = some [.carrier 20] :=
  ⟨by decide, by decide, by decide, by decide, by decide +kernel⟩

theorem witness_OutputOnlyGrows :
    (demIn .sync).mode ≠ .stopBit ∧ lastIsData ({ demIn .stopBit with out := [⟨dataChunk [1], 0, 9⟩] } : Demodulator).out :=
  ⟨by decide, _, rfl, rfl⟩

/-- MOD before its second chunk, its turn; DEM in `Sync` at sample 1 of a silent buffer. -/
def midRun : State :=
  { withChunks [{ id := 0x0110, payload := [0, 0] }, { id := 0x0120, payload := [] }] with
    ib := [0, 0, 0]
    mod := { Modulator.reset with cp := 1 }
    dem := { Demodulator.reset with pos := 1 } }

theorem midRun_inv : midRun.Inv where
  mod :=
    { frequency := ⟨by norm_num [midRun, Modulator.reset], 0x44960000, by decide +kernel⟩
      status := (by decide : (1 : Nat) ≤ 2)
      memory := fun x hx => by cases hx
      ignored := by simp [midRun, withChunks, Modulator.reset] }
  dem :=
    { codec := ⟨rfl, rfl⟩
      output := ⟨by simp [midRun, Demodulator.reset], trivial, trivial⟩
      status := by decide
      ended := by decide
      accounts := fun _ => ⟨rfl, by rintro e ⟨⟩⟩
      mode := (by decide : true = true ∧ 0 ≤ 1 ∧ 1 ≤ 3) }

theorem witness_EveryStepKeepsTheInvariant : midRun.Inv ∧ ∃ t, step midRun = .next t := ⟨midRun_inv, _, rfl⟩

theorem witness_RunsAreSafe : midRun.Inv := midRun_inv

/-- A lone chunk with a zero frequency faults at index 0; no chunk at all is Done. -/
theorem witness_ModulateStops :
    (modFinal [{ id := 0x0113, payload := [0, 0, 0, 0] }] (canonical .d16 .intent)).mod.status = .faulted .invalidValue 0
      ∧ (modFinal [] (canonical .d16 .intent)).mod.status = .done := by decide +kernel

theorem witness_SpansTileTheInput : 0 < ([0, 0, 0] : List Sample).length := by decide

theorem witness_CarrierThenByteIsRecovered : (19 ≤ 19 ∧ 19 ≤ 65535) ∧ 19 ≤ 65535 ∧ 65535 ≤ 65535 := by decide

end Sys2Proof.Tests
end

section
/-! The stored form of samples and its conversion back (R56, R59): what `storeSample`, `loadSamples16` and `loadSamples` answer,
and that loading undoes storing, one sample at a time. -/

namespace Sys2Proof.Machine

theorem inRange_d16_iff (x : Int) : inRange .d16 x ↔ -32767 ≤ x ∧ x ≤ 32767 := by
  simp only [inRange, amplitude]
  omega

theorem inRange_d8_iff (x : Int) : inRange .d8 x ↔ -127 ≤ x ∧ x ≤ 127 := by
  simp only [inRange, amplitude]
  omega

/-! ### Storing one sample -/

/-- The two stored bytes assemble to the 16-bit two's complement, whether or not the sample is in range. -/
theorem storeSample_d16_bytes (x : Sample) :
    ∃ lo hi : Byte, storeSample .d16 x = [lo, hi] ∧ lo.toNat + 256 * hi.toNat = (BitVec.ofInt 16 x).toNat := by
  refine ⟨_, _, rfl, ?_⟩
  rw [← leNat_two]
  exact (leNat_leBytes 2 _).trans (Nat.mod_eq_of_lt (BitVec.ofInt 16 x).isLt)

theorem toNat_ofInt_of_inRange_d16 {x : Int} (hx : inRange .d16 x) :
    ((BitVec.ofInt 16 x).toNat : Int) = if x < 0 then x + 65536 else x := by
  obtain ⟨hlow, hhigh⟩ := (inRange_d16_iff x).mp hx
  rw [BitVec.toNat_ofInt]
  split_ifs <;> omega

theorem toInt_ofInt_of_inRange_d16 {x : Int} (hx : inRange .d16 x) : (BitVec.ofInt 16 x).toInt = x := by
  obtain ⟨hlow, hhigh⟩ := (inRange_d16_iff x).mp hx
  exact BitVec.toInt_ofInt_eq_self (by decide) (by omega) (by omega)

theorem storeSample_d8_byte {x : Int} (hx : inRange .d8 x) :
    ∃ b : Byte, storeSample .d8 x = [b] ∧ (b.toNat : Int) = x + 127 := by
  obtain ⟨hlow, hhigh⟩ := (inRange_d8_iff x).mp hx
  refine ⟨_, rfl, ?_⟩
  rw [BitVec.toNat_ofInt, offset8]
  omega

/-! ### Loading a region -/

@[simp] theorem loadSamples_nil (depth : Depth) : loadSamples depth [] = [] := by cases depth <;> rfl

@[simp] theorem loadSamples_d16_pair (lo hi : Byte) (rest : List Byte) :
    loadSamples .d16 (lo :: hi :: rest)
      = (BitVec.ofNat 16 (lo.toNat + 256 * hi.toNat)).toInt :: loadSamples .d16 rest := rfl

@[simp] theorem loadSamples_d16_odd (b : Byte) : loadSamples .d16 [b] = [] := rfl

@[simp] theorem loadSamples_d8_cons (b : Byte) (rest : List Byte) :
    loadSamples .d8 (b :: rest) = ((b.toNat : Int) - 127) :: loadSamples .d8 rest := rfl

/-- `sext_16` of a pair of bytes by the sign bit of the high byte (R59). -/
theorem toInt_ofNat_bytes (lo hi : Byte) :
    (BitVec.ofNat 16 (lo.toNat + 256 * hi.toNat)).toInt
      = if hi.toNat < 128 then (lo.toNat : Int) + 256 * hi.toNat else (lo.toNat : Int) + 256 * hi.toNat - 65536 := by
  have hlo : lo.toNat < 256 := lo.isLt
  have hhi : hi.toNat < 256 := hi.isLt
  rw [BitVec.toInt_eq_toNat_cond, BitVec.toNat_ofNat, Nat.mod_eq_of_lt (by omega)]
  split_ifs <;> omega

theorem loadSamples_d16_length (bytes : List Byte) : (loadSamples .d16 bytes).length = bytes.length / 2 := by
  induction bytes using loadSamples16.induct with
  | case1 lo hi rest ih =>
    simp only [loadSamples_d16_pair, List.length_cons, ih]
    omega
  | case2 b => simp
  | case3 => rfl

theorem loadSamples_d16_getElem? (bytes : List Byte) (k : Nat) (hk : 2 * k + 1 < bytes.length) :
    (loadSamples .d16 bytes)[k]?
      = some (BitVec.ofNat 16 ((bytes.getD (2 * k) 0).toNat + 256 * (bytes.getD (2 * k + 1) 0).toNat)).toInt := by
  induction bytes using loadSamples16.induct generalizing k with
  | case1 lo hi rest ih =>
    cases k with
    | zero => rfl
    | succ k =>
      have hrest : 2 * k + 1 < rest.length := by
        simp only [List.length_cons] at hk
        omega
      exact ih k hrest
  | case2 b =>
    simp only [List.length_singleton] at hk
    omega
  | case3 => cases hk

/-! ### Loading what was stored -/

@[simp] theorem storeSamples_nil (depth : Depth) : storeSamples depth [] = [] := rfl

@[simp] theorem storeSamples_cons (depth : Depth) (x : Sample) (xs : List Sample) :
    storeSamples depth (x :: xs) = storeSample depth x ++ storeSamples depth xs := rfl

/-- The stored bytes of one in-range sample at the head of a region load as that sample, and the rest loads as before. -/
theorem loadSamples_storeSample_append (depth : Depth) {x : Sample} (hx : inRange depth x) (rest : List Byte) :
    loadSamples depth (storeSample depth x ++ rest) = x :: loadSamples depth rest := by
  cases depth with
  | d8 =>
    obtain ⟨b, hstore, hb⟩ := storeSample_d8_byte hx
    simp [hstore, hb]
  | d16 =>
    obtain ⟨lo, hi, hstore, hbytes⟩ := storeSample_d16_bytes x
    calc loadSamples .d16 (storeSample .d16 x ++ rest)
        = (BitVec.ofNat 16 (BitVec.ofInt 16 x).toNat).toInt :: loadSamples .d16 rest := by
          simp only [hstore, List.cons_append, List.nil_append, loadSamples_d16_pair, hbytes]
      _ = x :: loadSamples .d16 rest := by rw [BitVec.ofNat_toNat, BitVec.setWidth_eq, toInt_ofInt_of_inRange_d16 hx]

theorem loadSamples_storeSamples (depth : Depth) (xs : List Sample) (hxs : ∀ x ∈ xs, inRange depth x) :
    loadSamples depth (storeSamples depth xs) = xs := by
  induction xs with
  | nil => simp
  | cons x xs ih =>
    obtain ⟨hx, hrest⟩ := List.forall_mem_cons.mp hxs
    rw [storeSamples_cons, loadSamples_storeSample_append depth hx, ih hrest]

/-- Settles O7: the stored bytes and the loaded values by the lemmas on one sample and one region, and the round trip by
induction on the stream. -/
theorem storedFormRoundTrip : Obligations.StoredFormRoundTrip := by
  refine ⟨fun _ _ => rfl, fun x hx => ?stored16, fun x hx => storeSample_d8_byte hx,
    fun bytes => ⟨loadSamples_d16_length bytes, fun k hk => ?loaded16⟩, fun _ => rfl, loadSamples_storeSamples⟩
  case stored16 =>
    obtain ⟨lo, hi, hstore, hbytes⟩ := storeSample_d16_bytes x
    exact ⟨lo, hi, hstore, by rw [hbytes, toNat_ofInt_of_inRange_d16 hx]⟩
  case loaded16 => rw [loadSamples_d16_getElem? bytes k hk, toInt_ofNat_bytes]

end Sys2Proof.Machine
end

section
/-! The record bytes and reading them back (R81, R99, R100): what `readRecord` answers on a record, on a cut record and on no
bytes, what `readRecords` answers on a row of records, and what `readUef` answers after a written header. -/

namespace Sys2Proof.Machine

/-! ### One record -/

@[simp] theorem encodeChunk_length (c : Chunk) : (encodeChunk c).length = 6 + c.payload.length := by
  simp only [encodeChunk, List.length_append, leBytes_length]

theorem payloadFits_iff (payload : List Byte) : payloadFits payload = true ↔ payload.length < 2 ^ 32 :=
  decide_eq_true_iff

@[simp] theorem readRecord_nil : readRecord [] = .endOfChunks := rfl

/-- Where the two header fields stand whole, only the payload can be short. -/
theorem readRecord_fields {id len : List Byte} (hid : id.length = 2) (hlen : len.length = 4) (body : List Byte) :
    readRecord (id ++ len ++ body)
      = if body.length < leNat len then .rejected .truncatedPayload
        else .record { id := BitVec.ofNat 16 (leNat id), payload := body.take (leNat len) } (body.drop (leNat len)) := by
  have htotal : (id ++ len ++ body).length = 6 + body.length := by simp only [List.length_append, hid, hlen]
  have hnonempty : id ++ len ++ body ≠ [] := List.ne_nil_of_length_pos (by omega)
  have hidField : (id ++ len ++ body).take 2 = id := by simp [List.append_assoc, ← hid]
  have hlenField : ((id ++ len ++ body).drop 2).take 4 = len := by simp [List.append_assoc, ← hid, ← hlen]
  have hbody : (id ++ len ++ body).drop 6 = body := List.drop_left' (by rw [List.length_append, hid, hlen])
  rw [readRecord, if_neg hnonempty, if_neg (by omega), if_neg (by omega), hidField, hlenField, hbody]

/-- The header fields of a chunk's own record, before any bytes, announce its identifier and its payload length. -/
theorem readRecord_header {c : Chunk} (hfits : payloadFits c.payload = true) (body : List Byte) :
    readRecord (leBytes 2 c.id.toNat ++ leBytes 4 c.payload.length ++ body)
      = if body.length < c.payload.length then .rejected .truncatedPayload
        else .record { id := c.id, payload := body.take c.payload.length } (body.drop c.payload.length) := by
  have hid : BitVec.ofNat 16 (leNat (leBytes 2 c.id.toNat)) = c.id := by
    rw [leNat_leBytes, Nat.mod_eq_of_lt (show _ < 256 ^ 2 from c.id.isLt), BitVec.ofNat_toNat, BitVec.setWidth_eq]
  have hlen : leNat (leBytes 4 c.payload.length) = c.payload.length := by
    rw [leNat_leBytes, Nat.mod_eq_of_lt (show _ < 256 ^ 4 from (payloadFits_iff _).mp hfits)]
  rw [readRecord_fields (leBytes_length _ _) (leBytes_length _ _), hid, hlen]

theorem readRecord_encodeChunk_append {c : Chunk} (hfits : payloadFits c.payload = true) (rest : List Byte) :
    readRecord (encodeChunk c ++ rest) = .record c rest := by
  rw [encodeChunk, List.append_assoc, readRecord_header hfits, if_neg (by simp), List.take_left, List.drop_left]

/-- A record cut strictly inside is rejected (R100): inside the identifier, inside the length field, or inside the payload. -/
theorem readRecord_take_encodeChunk {c : Chunk} (hfits : payloadFits c.payload = true) {n : Nat} (hpos : 0 < n)
    (hcut : n < (encodeChunk c).length) : ∃ e, readRecord ((encodeChunk c).take n) = .rejected e := by
  have hlength : ((encodeChunk c).take n).length = n := List.length_take_of_le hcut.le
  have hnonempty : (encodeChunk c).take n ≠ [] := List.ne_nil_of_length_pos (by omega)
  rw [encodeChunk_length] at hcut
  by_cases hinId : n < 2
  · exact ⟨.truncatedIdentifier, by rw [readRecord, if_neg hnonempty, if_pos (by omega)]⟩
  by_cases hinLength : n < 6
  · exact ⟨.truncatedLength, by rw [readRecord, if_neg hnonempty, if_neg (by omega), if_pos (by omega)]⟩
  have hpayload : (encodeChunk c).take n
      = leBytes 2 c.id.toNat ++ leBytes 4 c.payload.length ++ c.payload.take (n - 6) := by
    rw [encodeChunk, List.take_append, List.take_of_length_le (by simp; omega)]
    simp
  refine ⟨.truncatedPayload, ?_⟩
  rw [hpayload, readRecord_header hfits, if_pos]
  rw [List.length_take]
  omega

/-! ### A row of records -/

/-- The records of fitting chunks read back in front of whatever follows, which is read at the index after them. -/
theorem readRecords_flatMap_encodeChunk (chunks : List Chunk) (hfits : ∀ c ∈ chunks, payloadFits c.payload = true)
    (fuel index : Nat) (rest : List Byte) :
    readRecords (fuel + chunks.length) index (chunks.flatMap encodeChunk ++ rest)
      = { chunks := chunks ++ (readRecords fuel (index + chunks.length) rest).chunks
          error := (readRecords fuel (index + chunks.length) rest).error } := by
  induction chunks generalizing index with
  | nil => rfl
  | cons c cs ih =>
    obtain ⟨hc, hcs⟩ := List.forall_mem_cons.mp hfits
    have hindex : index + (cs.length + 1) = index + 1 + cs.length := by omega
    rw [List.length_cons, ← Nat.add_assoc, readRecords, List.flatMap_cons, List.append_assoc,
      readRecord_encodeChunk_append hc]
    simp only [ih hcs, hindex, List.cons_append]

theorem length_le_flatMap_encodeChunk (chunks : List Chunk) : chunks.length ≤ (chunks.flatMap encodeChunk).length := by
  induction chunks with
  | nil => simp
  | cons c cs ih =>
    simp only [List.flatMap_cons, List.length_cons, List.length_append, encodeChunk_length]
    omega

theorem readRecords_nil (fuel index : Nat) : readRecords fuel index [] = { chunks := [], error := none } := by
  cases fuel <;> rfl

theorem readRecords_rejected {bytes : List Byte} {e : RecordError} (h : readRecord bytes = .rejected e)
    (fuel index : Nat) :
    readRecords (fuel + 1) index bytes = { chunks := [], error := some (.malformedChunk, index) } := by
  rw [readRecords, h]

/-! ### The container -/

/-- After a written header (R82) the records are read, from index 0. -/
theorem readUef_header (body : List Byte) :
    readUef (uefMagic ++ leBytes 2 uefVersion ++ body) = readRecords (body.length + 13) 0 body := by
  have hlength : (uefMagic ++ leBytes 2 uefVersion ++ body).length = body.length + 12 := by
    simp [uefMagic]
    omega
  have hmagic : (uefMagic ++ leBytes 2 uefVersion ++ body).take 10 = uefMagic := by
    rw [List.append_assoc]
    exact List.take_left' rfl
  have hbody : (uefMagic ++ leBytes 2 uefVersion ++ body).drop 12 = body := List.drop_left' rfl
  rw [readUef, if_neg (not_not_intro hmagic), if_neg (by omega), hbody, hlength]

/-- A container of fitting chunks with any bytes after them: those chunks, then what the bytes read as at the next index.
One unit of fuel at least is left for them. -/
theorem readUef_writeUef_append (chunks : List Chunk) (hfits : ∀ c ∈ chunks, payloadFits c.payload = true)
    (rest : List Byte) :
    ∃ fuel, readUef (writeUef chunks ++ rest)
      = { chunks := chunks ++ (readRecords (fuel + 1) chunks.length rest).chunks
          error := (readRecords (fuel + 1) chunks.length rest).error } := by
  have henough := length_le_flatMap_encodeChunk chunks
  obtain ⟨fuel, hfuel⟩ : ∃ fuel, (chunks.flatMap encodeChunk ++ rest).length + 13 = fuel + 1 + chunks.length :=
    ⟨(chunks.flatMap encodeChunk ++ rest).length + 12 - chunks.length, by rw [List.length_append]; omega⟩
  refine ⟨fuel, ?_⟩
  rw [writeUef, List.append_assoc, readUef_header, hfuel, readRecords_flatMap_encodeChunk chunks hfits, Nat.zero_add]

/-- Settles O4: after the whole records either no byte is left or a record that is rejected. -/
theorem containerKeepsWholeRecords : Obligations.ContainerKeepsWholeRecords := by
  intro chunks hfits
  constructor
  · obtain ⟨fuel, hread⟩ := readUef_writeUef_append chunks hfits []
    simpa [readRecords_nil] using hread
  · intro c n hc hpos hcut
    obtain ⟨e, hrejected⟩ := readRecord_take_encodeChunk hc hpos hcut
    obtain ⟨fuel, hread⟩ := readUef_writeUef_append chunks hfits ((encodeChunk c).take n)
    simpa [readRecords_rejected hrejected] using hread

end Sys2Proof.Machine
end

section
/-! What the chunk rules 0x100, 0x110, 0x111, 0x112, 0x115 and the unrecognised identifier make of the state (R164, R166 to
R168, R172, R175): the `u16` fields of a payload, the samples of tones and frames, and one completion or exception each. -/

namespace Sys2Proof.Machine

open Sys2Proof.Statement

/-! ### The dispatch of the chunks with operands (R160) -/

theorem exec_carrier (payload : List Byte) (s : State) : exec (.carrier payload) s = execCarrier payload s := rfl

theorem exec_dummy (payload : List Byte) (s : State) : exec (.dummy payload) s = execDummy payload s := rfl

theorem exec_gap (payload : List Byte) (s : State) : exec (.gap payload) s = execGap payload s := rfl

theorem exec_phase (payload : List Byte) (s : State) : exec (.phase payload) s = execPhase payload s := rfl

/-! ### The end of a chunk -/

theorem complete_emit (s : State) (xs : List Sample) : complete (s.emit xs) = .next (afterEmit s xs) := rfl

theorem raise_eq_afterFault (e : Exception) (s : State) : raise e s = .next (afterFault s e) := rfl

/-! ### The `u16` fields of a payload -/

theorem leNat_take_two {payload : List Byte} {off : Nat} (h : off + 2 ≤ payload.length) :
    leNat ((payload.drop off).take 2) = u16At payload off := by
  have hfield : (payload.drop off).take 2 = [payload[off], payload[off + 1]] := by
    rw [List.drop_eq_getElem_cons (by omega), List.drop_eq_getElem_cons (by omega)]
    rfl
  rw [hfield, leNat_two, u16At, List.getD_eq_getElem _ _ (by omega), List.getD_eq_getElem _ _ (by omega)]

theorem readU16_eq_some {payload : List Byte} {off : Nat} (h : off + 2 ≤ payload.length) :
    readU16 payload off = some (u16At payload off) :=
  memRead_eq_some.mpr ⟨h, (leNat_take_two h).symm⟩

theorem readU16_eq_none {payload : List Byte} {off : Nat} (h : payload.length < off + 2) : readU16 payload off = none :=
  memRead_eq_none.mpr h

theorem cycleCount_eq_some {payload : List Byte} (h : 2 ≤ payload.length) :
    cycleCount payload = some (u16At payload 0) :=
  readU16_eq_some h

theorem cycleCount_eq_none {payload : List Byte} (h : payload.length < 2) : cycleCount payload = none :=
  readU16_eq_none h

/-- The operands of 0x111 are read just when the second field lies inside the payload. -/
theorem dummyOperands_eq_none {payload : List Byte} (h : payload.length < 4) : dummyOperands payload = none := by
  rw [dummyOperands, readU16_eq_none (off := 2) h]
  cases readU16 payload 0 <;> rfl

theorem dummyOperands_eq_some {payload : List Byte} (h : 4 ≤ payload.length) :
    dummyOperands payload = some (u16At payload 0, u16At payload 2) := by
  rw [dummyOperands, readU16_eq_some (by omega), readU16_eq_some h]

/-! ### Silence -/

/-- At amplitude 0 a cycle is zeros, whatever the phase (R128, R134). -/
theorem cycleSamples_zero (ph n : Nat) : cycleSamples 0 ph n = List.replicate n 0 := by
  simp [cycleSamples, sineq_zero]

theorem repeated_silentCycle (n : Nat) (s : State) :
    repeated n s.silentCycle
      = List.replicate (n * samplesPerCycle s.cfg.rate (2 * s.mod.baseFrequency)) 0 := by
  rw [repeated, State.silentCycle, State.cycle, cycleSamples_zero, List.flatten_replicate_replicate, State.fastFrequency]

/-! ### The samples of tones and frames -/

@[simp] theorem State.cycle_length (s : State) (f : ℚ) (amp : Nat) :
    (s.cycle f amp).length = samplesPerCycle s.cfg.rate f := cycleSamples_length _ _ _

/-- A zero takes one slow cycle and a one takes two fast ones (R161). -/
theorem flatMap_bitTone_length (slow fast : List Sample) (bits : List Bool) :
    (bits.flatMap (bitTone slow fast)).length
      = bits.count false * slow.length + bits.count true * (2 * fast.length) := by
  induction bits with
  | nil => simp
  | cons b bits ih =>
    rw [List.flatMap_cons, List.length_append, ih]
    cases b <;> simp [bitTone] <;> ring

@[simp] theorem dataBits_length (v : Byte) (nbits : Nat) : (dataBits v nbits).length = nbits := by simp [dataBits]

/-- A frame as 0x100 makes it: a start bit, 8 data bits and one stop bit (R164). -/
theorem frameBits_plain (v : Byte) : frameBits v 8 parityNone 1 = false :: (dataBits v 8 ++ [true]) := by
  simp [frameBits, parityBit, parityNone]

theorem frame_plain_length (slow fast : List Sample) (v : Byte) :
    (frame slow fast v 8 parityNone 1).length
      = (9 - (dataBits v 8).count true) * slow.length + ((dataBits v 8).count true + 1) * (2 * fast.length) := by
  have hcount : (dataBits v 8).count false + (dataBits v 8).count true = 8 := by
    rw [List.count_false_add_count_true, dataBits_length]
  have hzeros : (false :: (dataBits v 8 ++ [true])).count false = 9 - (dataBits v 8).count true := by
    simp
    omega
  have hones : (false :: (dataBits v 8 ++ [true])).count true = (dataBits v 8).count true + 1 := by simp
  rw [frame, frameBits_plain, if_neg (by decide), List.append_nil, flatMap_bitTone_length, hzeros, hones]

/-- The one byte of 0x111 is framed as a data block of that byte (R167). -/
theorem frames_singleton (s : State) (v : Byte) (nbits : Nat) (parity : Byte) (stops : Int) :
    s.frames [v] nbits parity stops = frame s.slowCycle s.fastCycle v nbits parity stops := by
  simp [State.frames]

/-- In the canonical configuration a slow cycle takes 37 samples and a fast one 18 (R131). -/
theorem canonical_slowCycle_length (depth : Depth) (f : SecCountFormula) :
    (modStart [] (canonical depth f)).slowCycle.length = 37 := by
  rw [State.slowCycle, State.cycle_length]
  change samplesPerCycle 44100 1200 = 37
  decide +kernel

theorem canonical_fastCycle_length (depth : Depth) (f : SecCountFormula) :
    (modStart [] (canonical depth f)).fastCycle.length = 18 := by
  rw [State.fastCycle, State.cycle_length]
  change samplesPerCycle 44100 (2 * 1200) = 18
  decide +kernel

/-! ### The chunk rules -/

/-- Settles O15: the dispatch unfolds to the frames, and a frame of `k` one-bits has `(9 - k) * 37 + (k + 1) * 36` samples. -/
theorem dataFramesEveryByte : Obligations.DataFramesEveryByte := by
  refine ⟨fun _ _ => rfl, fun v depth f => ?_⟩
  have hones : (dataBits v 8).count true ≤ 8 := List.count_le_length.trans_eq (dataBits_length v 8)
  calc _ = (9 - (dataBits v 8).count true) * 37 + ((dataBits v 8).count true + 1) * (2 * 18) := by
        rw [← canonical_slowCycle_length depth f, ← canonical_fastCycle_length depth f]
        exact frame_plain_length _ _ v
    _ = 369 - (dataBits v 8).count true := by omega

/-- Settles O17: the count is read just when the payload holds two bytes. -/
theorem carrierEmitsFastCycles : Obligations.CarrierEmitsFastCycles := by
  intro payload s
  refine ⟨fun hlong => ?_, fun hshort => ?_⟩
  · rw [exec_carrier, execCarrier, cycleCount_eq_some hlong]
    exact complete_emit s _
  · rw [exec_carrier, execCarrier, cycleCount_eq_none hshort]
    exact raise_eq_afterFault _ s

/-- Settles O18: both counts are read just when the payload holds four bytes. -/
theorem dummyEmitsFramedByteBetweenTones : Obligations.DummyEmitsFramedByteBetweenTones := by
  intro payload s
  refine ⟨fun hlong => ?_, fun hshort => ?_⟩
  · rw [exec_dummy, execDummy, dummyOperands_eq_some hlong, frames_singleton]
    exact complete_emit s _
  · rw [exec_dummy, execDummy, dummyOperands_eq_none hshort]
    exact raise_eq_afterFault _ s

/-- Settles O19: the silent cycles are zeros, as many as the cycles at the fast rate have samples. -/
theorem gapEmitsSilenceAtFastRate : Obligations.GapEmitsSilenceAtFastRate := by
  intro payload s
  refine ⟨fun hlong => ?_, fun hshort => ?_⟩
  · rw [exec_gap, execGap, cycleCount_eq_some hlong, ← repeated_silentCycle]
    exact complete_emit s _
  · rw [exec_gap, execGap, cycleCount_eq_none hshort]
    exact raise_eq_afterFault _ s

/-- Settles O22: the phase is read just when the payload holds two bytes. -/
theorem phaseIsWrittenUnreduced : Obligations.PhaseIsWrittenUnreduced := by
  intro payload s
  refine ⟨fun hlong => ?_, fun hshort => ?_⟩
  · rw [exec_phase, execPhase, phaseOperand, readU16_eq_some hlong]
    rfl
  · rw [exec_phase, execPhase, phaseOperand, readU16_eq_none hshort]
    exact raise_eq_afterFault _ s

/-- An identifier outside the nine selects the last outcome of the decoder (R83, R97). -/
theorem decodeChunk_of_not_recognised {id : U16} (h : id ∉ recognisedIds) (payload : List Byte) :
    decodeChunk { id := id, payload := payload } = .chunk id payload := by
  simp only [recognisedIds, List.mem_cons, List.not_mem_nil, or_false, not_or] at h
  simp only [decodeChunk, h, ↓reduceIte]

/-- Settles O24: the decoder's last outcome, whose rule reads no byte of the payload. -/
theorem unrecognisedIsRecorded : Obligations.UnrecognisedIsRecorded :=
  fun _ payload _ hid => ⟨decodeChunk_of_not_recognised hid payload, rfl⟩

end Sys2Proof.Machine
end

section
/-! The integer sine is the real one (R124, R126). With `cos theta = p/q`, a `Turn` tracks the multiple `k*theta`: doubling
it and adding `theta` keep that, so `halfTurns` counts the half turns of `n*theta`. Since the cosine falls on `[0, pi]`,
comparing a number of half turns with that count compares two cosines, and the digit search of `roundCos` ends at the rounded
sample. -/

namespace Sys2Proof.Machine

open Sys2Proof.Statement
open Real (cos sin arccos)

/-! ### Half turns -/

theorem alternate_cast (halves : Nat) (x : Int) : (alternate halves x : ℝ) = (-1) ^ halves * x := by
  unfold alternate
  split_ifs with h
  · rw [(Nat.even_iff.mpr h).neg_one_pow, one_mul]
  · rw [(Nat.not_even_iff_odd.mp (mt Nat.even_iff.mp h)).neg_one_pow, Int.cast_neg, neg_one_mul]

theorem cos_nonpos_iff {φ : ℝ} (h0 : 0 ≤ φ) (hπ : φ < Real.pi) : cos φ ≤ 0 ↔ Real.pi / 2 ≤ φ := by
  refine ⟨fun h => ?_, fun h => Real.cos_nonpos_of_pi_div_two_le_of_le h (by linarith)⟩
  by_contra! hlt
  exact absurd (Real.cos_pos_of_mem_Ioo ⟨by linarith, hlt⟩) h.not_gt

theorem sin_nonpos_iff {φ : ℝ} (h0 : 0 < φ) (h2π : φ < 2 * Real.pi) : sin φ ≤ 0 ↔ Real.pi ≤ φ := by
  refine ⟨fun h => ?_, fun h => ?_⟩
  · by_contra! hlt
    exact absurd (Real.sin_pos_of_pos_of_lt_pi h0 hlt) h.not_gt
  · rw [← Real.sin_sub_two_pi]
    exact Real.sin_nonpos_of_nonpos_of_neg_pi_le (by linarith) (by linarith)

/-- Positive factors do not change a sign. -/
theorem nonpos_iff_of_mul_eq_mul {a b x y : ℝ} (ha : 0 < a) (hb : 0 < b) (h : x * a = b * y) : x ≤ 0 ↔ y ≤ 0 := by
  rw [← smul_nonpos_iff_nonpos_of_pos_right ha, smul_eq_mul, h, ← smul_eq_mul, smul_nonpos_iff_nonpos_of_pos_left hb]

/-- What a `Turn` stands for: `halves` whole half turns lie in `k*theta`, and the two parts are its cosine and sine, each
times the scale. -/
structure Turn.Tracks (q : Int) (θ : ℝ) (k : Nat) (t : Turn) : Prop where
  halves_le : t.halves * Real.pi ≤ k * θ
  lt_halves : k * θ < (t.halves + 1) * Real.pi
  scale_pos : (0 : ℝ) < t.scale
  cosPart_eq : (t.cosPart : ℝ) = t.scale * cos (k * θ)
  sinPart_eq : t.sinPart * (q * sin θ) = t.scale * sin (k * θ)

/-- The angle in `(0, pi)` whose cosine is `p/q`. -/
structure IsAngle (p q : Int) (θ : ℝ) : Prop where
  denom_pos : 0 < q
  pos : 0 < θ
  lt_pi : θ < Real.pi
  num_eq : (p : ℝ) = q * cos θ

section

variable {p q : Int} {θ : ℝ} {k : Nat} {t : Turn}

theorem Turn.tracks_zero : Turn.zero.Tracks q θ 0 := by
  constructor <;> simp [Turn.zero, Real.pi_pos]

/-- The test of `Turn.double` finds whether `k*theta` is a quarter turn past its last half turn. -/
theorem Turn.Tracks.alternate_cosPart_nonpos (h : t.Tracks q θ k) :
    alternate t.halves t.cosPart ≤ 0 ↔ t.halves * Real.pi + Real.pi / 2 ≤ k * θ := by
  have hle := h.halves_le
  have hlt := h.lt_halves
  have hcos : (alternate t.halves t.cosPart : ℝ) * 1 = t.scale * cos (k * θ - t.halves * Real.pi) := by
    rw [alternate_cast, h.cosPart_eq, Real.cos_sub_nat_mul_pi]
    ring
  rw [← Int.cast_nonpos (R := ℝ), nonpos_iff_of_mul_eq_mul one_pos h.scale_pos hcos,
    cos_nonpos_iff (by linarith) (by linarith), le_sub_iff_add_le']

theorem Turn.Tracks.double (h : t.Tracks q θ k) : t.double.Tracks q θ (2 * k) := by
  have hle := h.halves_le
  have hlt := h.lt_halves
  have hangle : ((2 * k : Nat) : ℝ) * θ = 2 * (k * θ) := by push_cast; ring
  constructor
  case scale_pos =>
    simp only [Turn.double, Int.cast_mul]
    exact mul_pos h.scale_pos h.scale_pos
  case cosPart_eq =>
    simp only [Turn.double, hangle, Real.cos_two_mul]
    push_cast
    rw [h.cosPart_eq]
    ring
  case sinPart_eq =>
    simp only [Turn.double, hangle, Real.sin_two_mul]
    push_cast
    linear_combination 2 * (t.cosPart : ℝ) * h.sinPart_eq + 2 * t.scale * sin (k * θ) * h.cosPart_eq
  case halves_le | lt_halves =>
    simp only [Turn.double, hangle, h.alternate_cosPart_nonpos]
    split_ifs <;> push_cast <;> linarith

/-- The test of `Turn.next` finds whether one `theta` more completes a half turn. -/
theorem Turn.Tracks.alternate_sinPart_nonpos (h : t.Tracks q θ k) (ha : IsAngle p q θ) :
    alternate t.halves (t.cosPart + p * t.sinPart) ≤ 0 ↔ (t.halves + 1) * Real.pi ≤ (k + 1) * θ := by
  have hle := h.halves_le
  have hlt := h.lt_halves
  have hpos := ha.pos
  have hlt_pi := ha.lt_pi
  have hq' : (0 : ℝ) < q := Int.cast_pos.mpr ha.denom_pos
  have hsin : (alternate t.halves (t.cosPart + p * t.sinPart) : ℝ) * (q * sin θ)
      = t.scale * q * sin (k * θ + θ - t.halves * Real.pi) := by
    rw [alternate_cast, Real.sin_sub_nat_mul_pi, Real.sin_add]
    push_cast
    rw [h.cosPart_eq, ha.num_eq]
    linear_combination (-1) ^ t.halves * q * cos θ * h.sinPart_eq
  rw [← Int.cast_nonpos (R := ℝ), nonpos_iff_of_mul_eq_mul (mul_pos hq' (Real.sin_pos_of_pos_of_lt_pi hpos hlt_pi))
    (mul_pos h.scale_pos hq') hsin, sin_nonpos_iff (by linarith) (by linarith), le_sub_iff_add_le']
  ring_nf

theorem Turn.Tracks.next (h : t.Tracks q θ k) (ha : IsAngle p q θ) : (t.next p q).Tracks q θ (k + 1) := by
  have hle := h.halves_le
  have hlt := h.lt_halves
  have hpos := ha.pos
  have hlt_pi := ha.lt_pi
  have hangle : ((k + 1 : Nat) : ℝ) * θ = k * θ + θ := by push_cast; ring
  constructor
  case scale_pos =>
    simp only [Turn.next, Int.cast_mul]
    exact mul_pos h.scale_pos (by exact_mod_cast ha.denom_pos)
  case cosPart_eq =>
    simp only [Turn.next, hangle, Real.cos_add]
    push_cast
    rw [h.cosPart_eq, ha.num_eq]
    linear_combination -(q * sin θ) * h.sinPart_eq + t.sinPart * q ^ 2 * Real.sin_sq_add_cos_sq θ
  case sinPart_eq =>
    simp only [Turn.next, hangle, Real.sin_add]
    push_cast
    rw [h.cosPart_eq, ha.num_eq]
    linear_combination q * cos θ * h.sinPart_eq
  case halves_le | lt_halves =>
    simp only [Turn.next, hangle, h.alternate_sinPart_nonpos ha]
    split_ifs <;> push_cast <;> linarith

/-- Each binary digit of `n` doubles the multiple, and a digit 1 then adds `theta`. -/
theorem turnOf_tracks (ha : IsAngle p q θ) (fuel n : Nat) (hn : n < 2 ^ fuel) : (turnOf p q fuel n).Tracks q θ n := by
  induction fuel generalizing n with
  | zero =>
    obtain rfl : n = 0 := by simpa using hn
    exact Turn.tracks_zero
  | succ fuel ih =>
    have hdouble : ((turnOf p q fuel (n / 2)).double).Tracks q θ (2 * (n / 2)) := (ih (n / 2) (by omega)).double
    unfold turnOf
    split_ifs with hzero heven
    · exact hzero ▸ Turn.tracks_zero
    · rwa [show 2 * (n / 2) = n by omega] at hdouble
    · have hnext := hdouble.next ha
      rwa [show 2 * (n / 2) + 1 = n by omega] at hnext

/-- `halfTurns` counts the half turns of `n*theta`. -/
theorem le_halfTurns_iff (ha : IsAngle p q θ) (j n : Nat) : j ≤ halfTurns p q n ↔ j * Real.pi ≤ n * θ := by
  have h := turnOf_tracks ha (n.log2 + 1) n Nat.lt_log2_self
  unfold halfTurns
  refine ⟨fun hj => le_trans ?_ h.halves_le, fun hj => ?_⟩
  · gcongr
  · have hlt : (j : ℝ) < (turnOf p q (n.log2 + 1) n).halves + 1 :=
      lt_of_mul_lt_mul_right (hj.trans_lt h.lt_halves) Real.pi_pos.le
    exact Nat.lt_succ_iff.mp (by exact_mod_cast hlt)

end

/-! ### The rounded sample -/

/-- `reaches` compares the real cosine with the half-way point below `k`. -/
theorem reaches_iff {amp j n k : Nat} (hn : 0 < n) (hj : j ≤ n) (hk : 0 < k) (hamp : k ≤ amp) :
    reaches amp j n k = true ↔ k ≤ ⌊amp * cos (j * Real.pi / n) + 1 / 2⌋₊ := by
  have hn' : (0 : ℝ) < n := Nat.cast_pos.mpr hn
  have hj' : (j : ℝ) ≤ n := Nat.cast_le.mpr hj
  have hk' : (1 : ℝ) ≤ k := Nat.one_le_cast.mpr hk
  have hamp' : (k : ℝ) ≤ amp := Nat.cast_le.mpr hamp
  have hpos : (0 : ℝ) < 2 * amp := by linarith
  have hlow : (-1 : ℝ) < (2 * k - 1) / (2 * amp) := (neg_lt_zero.mpr one_pos).trans (div_pos (by linarith) hpos)
  have hhigh : (2 * k - 1 : ℝ) / (2 * amp) < 1 := (div_lt_one hpos).mpr (by linarith)
  have hcos := Real.cos_arccos hlow.le hhigh.le
  have hθ : IsAngle (2 * k - 1) (2 * amp) (arccos ((2 * k - 1) / (2 * amp))) :=
    ⟨by omega, Real.arccos_pos.mpr hhigh, Real.arccos_lt_pi.mpr hlow, by
      push_cast
      rw [hcos, mul_div_cancel₀ _ hpos.ne']⟩
  have hangle : 0 ≤ j * Real.pi / n ∧ j * Real.pi / n ≤ Real.pi :=
    ⟨by positivity, (div_le_iff₀ hn').mpr (by nlinarith [Real.pi_pos])⟩
  calc reaches amp j n k = true
      ↔ j ≤ halfTurns (2 * k - 1) (2 * amp) n := decide_eq_true_iff
    _ ↔ j * Real.pi ≤ n * arccos ((2 * k - 1) / (2 * amp)) := le_halfTurns_iff hθ j n
    _ ↔ j * Real.pi / n ≤ arccos ((2 * k - 1) / (2 * amp)) := (div_le_iff₀' hn').symm
    _ ↔ (2 * k - 1) / (2 * amp) ≤ cos (j * Real.pi / n) := by
        rw [← Real.strictAntiOn_cos.le_iff_ge ⟨Real.arccos_nonneg _, Real.arccos_le_pi _⟩ hangle, hcos]
    _ ↔ (k : ℝ) ≤ amp * cos (j * Real.pi / n) + 1 / 2 := by
        rw [div_le_iff₀ hpos]
        constructor <;> intro h <;> linarith
    _ ↔ k ≤ ⌊amp * cos (j * Real.pi / n) + 1 / 2⌋₊ := (Nat.le_floor_iff' hk.ne').symm

/-- The search over binary digits ends at the number below which every sample is reached and above which none is. -/
theorem roundCos_eq_of_reaches {amp j n m : Nat} (hm : m ≤ amp)
    (hreach : ∀ k, 0 < k → k ≤ amp → (reaches amp j n k = true ↔ k ≤ m)) (digit k : Nat) (hk : k ≤ m)
    (hdigit : m < k + 2 ^ digit) : roundCos amp j n digit k = m := by
  induction digit generalizing k with
  | zero => simp only [roundCos]; omega
  | succ digit ih =>
    have hpos := Nat.two_pow_pos digit
    unfold roundCos
    split_ifs with h
    · exact ih _ ((hreach _ (by omega) h.1).mp h.2) (by omega)
    · refine ih _ hk (lt_of_not_ge fun hge => h ⟨hge.trans hm, ?_⟩)
      exact (hreach _ (by omega) (hge.trans hm)).mpr hge

theorem roundCos_eq_floor {amp j n : Nat} (hn : 0 < n) (hj : j ≤ n) :
    roundCos amp j n (amp.log2 + 1) 0 = ⌊amp * cos (j * Real.pi / n) + 1 / 2⌋₊ := by
  have hm : ⌊amp * cos (j * Real.pi / n) + 1 / 2⌋₊ ≤ amp := by
    have hle : (amp : ℝ) * cos (j * Real.pi / n) ≤ amp * 1 := by gcongr; exact Real.cos_le_one _
    exact Nat.lt_succ_iff.mp ((Nat.floor_lt' amp.succ_ne_zero).mpr (by push_cast; linarith))
  have hlog : amp < 2 ^ (amp.log2 + 1) := Nat.lt_log2_self
  exact roundCos_eq_of_reaches hm (fun k hk hamp => reaches_iff hn hj hk hamp) _ 0 (Nat.zero_le _) (by omega)

/-- A quarter turn minus the angle, whatever its sign, has the sine of the angle as its cosine. -/
theorem cos_dist_eq_sin {x half : Nat} (hhalf : 0 < half) :
    cos (Nat.dist half (2 * x) * Real.pi / (2 * half : Nat)) = sin (Real.pi * x / half) := by
  have hne : (half : ℝ) ≠ 0 := Nat.cast_ne_zero.mpr hhalf.ne'
  have hdist : (Nat.dist half (2 * x) : ℝ) = |(half : ℝ) - 2 * x| := by
    rcases Nat.le_total half (2 * x) with h | h
    · rw [Nat.dist_eq_sub_of_le h, Nat.cast_sub h, abs_sub_comm, Nat.cast_mul, Nat.cast_ofNat, abs_of_nonneg]
      exact sub_nonneg.mpr (by exact_mod_cast h)
    · rw [Nat.dist_eq_sub_of_le_right h, Nat.cast_sub h, Nat.cast_mul, Nat.cast_ofNat, abs_of_nonneg]
      exact sub_nonneg.mpr (by exact_mod_cast h)
  have hangle : |(half : ℝ) - 2 * x| * Real.pi / (2 * half : Nat) = |Real.pi / 2 - Real.pi * x / half| := by
    have hscale : Real.pi / 2 - Real.pi * x / half = ((half : ℝ) - 2 * x) * (Real.pi / (2 * half : Nat)) := by
      push_cast
      field_simp
    rw [hscale, abs_mul, abs_of_nonneg (by positivity : 0 ≤ Real.pi / ((2 * half : Nat) : ℝ)), mul_div_assoc]
  rw [hdist, hangle, Real.cos_abs, Real.cos_pi_div_two_sub]

/-- The magnitude of a sample is the rounded sine of its angle within the half turn. -/
theorem sineMagnitude_eq_floor {amp x half : Nat} (hx : x < half) :
    sineMagnitude amp x half = ⌊amp * sin (Real.pi * x / half) + 1 / 2⌋₊ := by
  have hhalf : 0 < half := by omega
  have hdist : Nat.dist half (2 * x) ≤ 2 * half := by unfold Nat.dist; omega
  have hdvd := Nat.gcd_dvd_right (Nat.dist half (2 * x)) (2 * half)
  unfold sineMagnitude
  rw [roundCos_eq_floor (Nat.div_pos (Nat.le_of_dvd (by omega) hdvd) (Nat.gcd_pos_of_pos_right _ (by omega)))
      (Nat.div_le_div_right hdist), ← cos_dist_eq_sin hhalf, mul_div_right_comm, mul_div_right_comm,
    Nat.cast_div_div_div_cancel_right hdvd (Nat.gcd_dvd_left _ _)]

/-! ### The signed sample -/

theorem roundHalfAway_of_nonneg {y : ℝ} (hy : 0 ≤ y) : roundHalfAway y = (⌊y + 1 / 2⌋₊ : Int) := by
  rw [roundHalfAway, if_pos hy, Int.natCast_floor_eq_floor (by linarith)]

theorem roundHalfAway_neg_of_nonneg {y : ℝ} (hy : 0 ≤ y) : roundHalfAway (-y) = -(⌊y + 1 / 2⌋₊ : Int) := by
  rcases hy.eq_or_lt with rfl | hpos
  · norm_num [roundHalfAway]
  · rw [roundHalfAway, if_neg (by linarith), neg_neg, Int.natCast_floor_eq_floor (by linarith)]

/-- The angle of R126 in half turns, reduced to one turn. -/
theorem sin_angle_eq {n : Nat} (hn : 0 < n) (ph t : Nat) :
    sin (ph * Real.pi / 180 + 2 * Real.pi * t / n)
      = sin (Real.pi * ((ph * n + 360 * t) % (360 * n) : Nat) / (180 * n : Nat)) := by
  have hdiv : ((360 * n : Nat) * ((ph * n + 360 * t) / (360 * n) : Nat) + ((ph * n + 360 * t) % (360 * n) : Nat) : ℝ)
      = ph * n + 360 * t := by exact_mod_cast Nat.div_add_mod (ph * n + 360 * t) (360 * n)
  refine Eq.trans ?_ (Real.sin_add_nat_mul_two_pi _ ((ph * n + 360 * t) / (360 * n)))
  congr 1
  have hne : (n : ℝ) ≠ 0 := Nat.cast_ne_zero.mpr hn.ne'
  push_cast at hdiv ⊢
  field_simp
  linear_combination (-1) * hdiv

/-- Within a half turn the sine is not negative. -/
theorem sin_half_turn_nonneg {x half : Nat} (hx : x ≤ half) : 0 ≤ sin (Real.pi * x / half) := by
  refine Real.sin_nonneg_of_nonneg_of_le_pi (by positivity) ?_
  rw [mul_div_assoc]
  exact mul_le_of_le_one_right Real.pi_pos.le (div_le_one_of_le₀ (Nat.cast_le.mpr hx) (Nat.cast_nonneg _))

/-- A half turn later the sine is negated. -/
theorem sin_second_half_turn {x half : Nat} (hhalf : 0 < half) (hx : half ≤ x) :
    sin (Real.pi * x / half) = -sin (Real.pi * (x - half : Nat) / half) := by
  have hne : (half : ℝ) ≠ 0 := Nat.cast_ne_zero.mpr hhalf.ne'
  rw [← Real.sin_add_pi, Nat.cast_sub hx]
  congr 1
  field_simp
  ring

/-- Settles O31: the reduced angle lies in the first or the second half turn, where the sample is the rounded sine or its
negation. -/
theorem sineIsRoundedExactly : Obligations.SineIsRoundedExactly := by
  intro amp ph t n hn
  have hrange : |sineq amp ph t n| ≤ amp := by
    rw [Int.abs_eq_natAbs]
    exact_mod_cast sineq_natAbs_le amp ph t n
  refine ⟨?_, abs_le.mp hrange⟩
  rw [sin_angle_eq hn]
  unfold sineq
  have hmod : (ph * n + 360 * t) % (360 * n) < 360 * n := Nat.mod_lt _ (by omega)
  generalize (ph * n + 360 * t) % (360 * n) = x at hmod ⊢
  split_ifs with hx
  · rw [sineMagnitude_eq_floor hx, roundHalfAway_of_nonneg (mul_nonneg amp.cast_nonneg (sin_half_turn_nonneg hx.le))]
  · rw [sin_second_half_turn (by omega) (not_lt.mp hx), mul_neg, sineMagnitude_eq_floor (by omega),
      roundHalfAway_neg_of_nonneg (mul_nonneg amp.cast_nonneg (sin_half_turn_nonneg (by omega)))]

end Sys2Proof.Machine
end

section
/-! Nearest-even rounding of a ratio (R10), the cycle length it gives (R122, R131), and the cycle and its two pulses (R120,
R128, R129). -/

namespace Sys2Proof.Machine

open Sys2Proof.Statement

/-- The rounding of a ratio, as `divRoundHalfEven` finds it from quotient and remainder: twice the distance to the ratio is at
most the denominator, and at equality the result is even. -/
theorem divRoundHalfEven_spec (a : Nat) {b : Nat} (hb : 0 < b) :
    2 * ((a : Int) - b * divRoundHalfEven a b).natAbs ≤ b
      ∧ (2 * ((a : Int) - b * divRoundHalfEven a b).natAbs = b → divRoundHalfEven a b % 2 = 0) := by
  have hdiv : (b : Int) * (a / b : Nat) + (a % b : Nat) = a := by exact_mod_cast Nat.div_add_mod a b
  have hmod := Nat.mod_lt a hb
  have hup : (a : Int) - b * (a / b + 1 : Nat) = (a % b : Nat) - b := by push_cast at hdiv ⊢; linarith
  have hdown : (a : Int) - b * (a / b : Nat) = (a % b : Nat) := by linarith
  unfold divRoundHalfEven
  split_ifs with hlow hhigh heven <;> simp only [hup, hdown] <;> omega

/-- The same over the rationals: the rounding is at most one half from the ratio, and even when it is exactly that far. -/
theorem divRoundHalfEven_nearest (a : Nat) {b : Nat} (hb : 0 < b) :
    |(a : ℚ) / b - divRoundHalfEven a b| ≤ 1 / 2
      ∧ (|(a : ℚ) / b - divRoundHalfEven a b| = 1 / 2 → divRoundHalfEven a b % 2 = 0) := by
  obtain ⟨hnear, htie⟩ := divRoundHalfEven_spec a hb
  have hb' : (0 : ℚ) < b := Nat.cast_pos.mpr hb
  have habs : |(a : ℚ) / b - divRoundHalfEven a b| = ((a : Int) - b * divRoundHalfEven a b).natAbs / b := by
    rw [Nat.cast_natAbs, Int.cast_abs, ← abs_of_pos hb', ← abs_div, abs_of_pos hb']
    congr 1
    push_cast
    field_simp
  rw [habs, div_le_div_iff₀ hb' two_pos, div_eq_div_iff hb'.ne' two_ne_zero]
  refine ⟨?_, fun h => htie ?_⟩
  · have : (2 * ((a : Int) - b * divRoundHalfEven a b).natAbs : ℚ) ≤ b := by exact_mod_cast hnear
    linarith
  · have : (2 * ((a : Int) - b * divRoundHalfEven a b).natAbs : ℚ) = b := by linarith
    exact_mod_cast this

/-- The natural ratio that `samplesPerCycle` rounds is the rate over the frequency. -/
theorem rate_div_frequency {rate f : ℚ} (hrate : 0 < rate) (hf : 0 < f) :
    rate / f = ((rate.num.toNat * f.den : Nat) : ℚ) / (rate.den * f.num.toNat : Nat) := by
  have hnum : ∀ {x : ℚ}, 0 < x → ((x.num.toNat : Nat) : ℚ) = x.num := fun hx => by
    exact_mod_cast Int.toNat_of_nonneg (Rat.num_pos.mpr hx).le
  rw [Nat.cast_mul, Nat.cast_mul, hnum hrate, hnum hf, ← div_div_div_eq, Rat.num_div_den, Rat.num_div_den]

/-- Settles O29: the rate over the frequency is a ratio of naturals, whose rounding is nearest-even. -/
theorem cycleLengthIsNearestEven : Obligations.CycleLengthIsNearestEven := by
  intro rate f hrate hf
  have hpos : 0 < rate.den * f.num.toNat := Nat.mul_pos rate.den_pos (Int.lt_toNat.mpr (Rat.num_pos.mpr hf))
  rw [rate_div_frequency hrate hf]
  exact divRoundHalfEven_nearest _ hpos

/-- Settles O33: each length and each table is a closed evaluation of the model. -/
theorem canonicalCycles : Obligations.CanonicalCycles := by
  refine ⟨?_, ?_, rfl, rfl, ?_, ?_, ?_, ?_⟩ <;> decide +kernel

theorem State.lowPulse_append_highPulse (s : State) (f : ℚ) (amp : Nat) :
    s.lowPulse f amp ++ s.highPulse f amp = s.cycle f amp := List.take_append_drop _ _

theorem State.lowPulse_length (s : State) (f : ℚ) (amp : Nat) :
    (s.lowPulse f amp).length = (samplesPerCycle s.cfg.rate f + 1) / 2 := by
  rw [State.lowPulse, List.length_take, State.cycle_length, lowPulseLength]
  omega

theorem State.highPulse_length (s : State) (f : ℚ) (amp : Nat) :
    (s.highPulse f amp).length = samplesPerCycle s.cfg.rate f / 2 := by
  rw [State.highPulse, List.length_drop, State.cycle_length, lowPulseLength]
  omega

theorem State.amp_eq_fullScale (s : State) : s.amp = fullScale s.cfg.depth := by
  unfold State.amp
  cases s.cfg.depth <;> rfl

/-- Settles O36: the pulses are the first samples of the cycle and what is left of it. -/
theorem pulsesSplitTheCycle : Obligations.PulsesSplitTheCycle := by
  refine ⟨fun s f amp => ⟨rfl, cycleSamples_zero _ _, s.lowPulse_append_highPulse f amp, s.lowPulse_length f amp,
    s.highPulse_length f amp⟩, fun s => ?_⟩
  rw [← s.amp_eq_fullScale]
  exact ⟨rfl, rfl, rfl⟩

end Sys2Proof.Machine
end

section
/-! What `ReadPulse` finds (R140) and the checks of a cycle (R142 to R144, R147): the samples of a pulse one
part after another, and what `checkCycle` answers. -/

namespace Sys2Proof.Machine

/-! ### The longest run of samples that satisfy a test -/

theorem prefixLength_eq_length_takeWhile (p : Sample → Bool) (xs : List Sample) :
    prefixLength p xs = (xs.takeWhile p).length := by
  induction xs with
  | nil => rfl
  | cons x xs ih =>
    rw [prefixLength, List.takeWhile_cons, ih]
    split_ifs <;> rfl

theorem drop_prefixLength (p : Sample → Bool) (xs : List Sample) : xs.drop (prefixLength p xs) = xs.dropWhile p := by
  induction xs with
  | nil => rfl
  | cons x xs ih =>
    rw [prefixLength, List.dropWhile_cons, ← ih]
    split_ifs <;> rfl

/-! ### A pulse -/

/-- `skipZeros` passes zeros only. -/
theorem drop_eq_zeros_append (ib : List Sample) (p : Nat) :
    ∃ z, skipZeros ib p = p + z ∧ ib.drop p = List.replicate z 0 ++ ib.drop (skipZeros ib p) := by
  refine ⟨_, rfl, ?_⟩
  have hzeros : (ib.drop p).takeWhile (fun x => decide (x = 0))
      = List.replicate (prefixLength (fun x => decide (x = 0)) (ib.drop p)) 0 :=
    List.eq_replicate_iff.mpr
      ⟨(prefixLength_eq_length_takeWhile _ _).symm, fun x hx => by simpa using List.mem_takeWhile_imp hx⟩
  rw [← hzeros, skipZeros, ← List.drop_drop, drop_prefixLength, List.takeWhile_append_dropWhile]

/-- `consumeSign` passes the longest run of samples of the sign. -/
theorem drop_eq_run_append (ib : List Sample) (g : Int) (p : Nat) :
    ∃ run : List Sample, consumeSign ib g p = p + run.length ∧ (∀ x ∈ run, x.sign = g)
      ∧ (∀ x, (ib.drop (consumeSign ib g p)).head? = some x → x.sign ≠ g)
      ∧ ib.drop p = run ++ ib.drop (consumeSign ib g p) := by
  refine ⟨(ib.drop p).takeWhile fun x => decide (x.sign = g), ?length, ?sign, ?stops, ?split⟩
  case length => rw [consumeSign, prefixLength_eq_length_takeWhile]
  case sign => exact fun x hx => by simpa using List.mem_takeWhile_imp hx
  case stops =>
    intro x hx
    rw [consumeSign, ← List.drop_drop, List.head?_drop] at hx
    simpa using prefixLength_stops hx
  case split => rw [consumeSign, ← List.drop_drop, drop_prefixLength, List.takeWhile_append_dropWhile]

theorem consumeTerminator_eq (ib : List Sample) (p : Nat) :
    consumeTerminator ib p = p + (if (ib.drop p).head? = some 0 then 1 else 0) := by
  rw [List.head?_drop, consumeTerminator]
  split_ifs <;> rfl

theorem readPulse_endOfStream_iff (ib : List Sample) (p : Nat) :
    readPulse ib p = .endOfStream ↔ ∀ x ∈ ib.drop p, x = 0 := by
  calc readPulse ib p = .endOfStream
      ↔ (ib.drop (skipZeros ib p)).head? = none := by
        rw [List.head?_drop]
        unfold readPulse
        cases ib[skipZeros ib p]? <;> simp
    _ ↔ (ib.drop p).dropWhile (fun x => decide (x = 0)) = [] := by
        rw [List.head?_eq_none_iff, skipZeros, ← List.drop_drop, drop_prefixLength]
    _ ↔ ∀ x ∈ ib.drop p, x = 0 := by simp [List.dropWhile_eq_nil_iff]

/-- A pulse that is returned starts with the sample after the zeros and ends where the terminator does. -/
theorem readPulse_eq_pulse {ib : List Sample} {p len next : Nat} {g : Int} (h : readPulse ib p = .pulse g len next) :
    (∃ x, ib[skipZeros ib p]? = some x ∧ x.sign = g)
      ∧ next = consumeTerminator ib (consumeSign ib g (skipZeros ib p)) := by
  unfold readPulse at h
  cases hx : ib[skipZeros ib p]? with
  | none => simp [hx] at h
  | some x =>
    simp only [hx, PulseResult.pulse.injEq] at h
    obtain ⟨rfl, -, rfl⟩ := h
    exact ⟨⟨x, rfl, rfl⟩, rfl⟩

/-- Settles O39: a pulse is put together from the three parts that `readPulse` passes. -/
theorem pulseShape : Obligations.PulseShape := by
  refine fun ib p => ⟨readPulse_endOfStream_iff ib p, fun g len next h => ?_⟩
  obtain ⟨hg, -, hforward, -, hlen⟩ := readPulse_pulse h
  obtain ⟨⟨x, hx, hsign⟩, hnext⟩ := readPulse_eq_pulse h
  obtain ⟨z, hz, hzeros⟩ := drop_eq_zeros_append ib p
  obtain ⟨run, hrun, hrunSign, hstops, hsplit⟩ := drop_eq_run_append ib g (skipZeros ib p)
  have hnonempty : run ≠ [] := by
    rintro rfl
    exact absurd hrun (consumeSign_lt hx hsign).ne'
  have htrichotomy : g = 1 ∨ g = -1 := by
    have := Int.sign_trichotomy x
    rw [hsign] at this
    tauto
  rw [consumeTerminator_eq, hrun, hz] at hnext
  refine ⟨z, run, ib.drop (consumeSign ib g (skipZeros ib p)), ?_, hnonempty, htrichotomy, hrunSign, hstops, ?_, ?_⟩
  · rw [List.append_assoc, ← hsplit, ← hzeros]
  · rw [hrun, hz]
    omega
  · omega

/-! ### The checks of a cycle -/

theorem frequencyOff_iff (f n : Nat) : frequencyOff f n = true ↔ |(44100 : Int) - f * n| > 500 * n := by
  rw [frequencyOff, decide_eq_true_iff, Int.abs_eq_natAbs, gt_iff_lt, gt_iff_lt, ← Int.ofNat_lt]
  rfl

theorem ratioTooLarge_iff (l1 l2 : Nat) : ratioTooLarge l1 l2 = true ↔ 5 * max l1 l2 > 8 * min l1 l2 :=
  decide_eq_true_iff

/-- With two pulses read, a cycle is what its three checks answer. -/
theorem classifyCycle_pulses {ib : List Sample} {p : Nat} {g1 g2 : Int} {l1 p1 l2 p2 : Nat}
    (h1 : readPulse ib p = .pulse g1 l1 p1) (h2 : readPulse ib p1 = .pulse g2 l2 p2) (f : Nat) :
    classifyCycle ib p f = checkCycle f g1 l1 g2 l2 p2 := by
  simp only [classifyCycle, h1, h2]

/-- Past the phase and ratio checks the frequency decides. -/
theorem checkCycle_of_phase_ratio {g1 g2 : Int} {l1 l2 : Nat} (hg : g1 ≠ g2) (hratio : ¬5 * max l1 l2 > 8 * min l1 l2)
    (f next : Nat) :
    checkCycle f g1 l1 g2 l2 next
      = if |(44100 : Int) - f * (l1 + l2)| > 500 * (l1 + l2) then .frequencyMismatch else .ok l1 l2 next := by
  rw [checkCycle, if_neg hg, if_neg ((ratioTooLarge_iff l1 l2).not.mpr hratio)]
  simp only [frequencyOff_iff, Nat.cast_add]

/-- Settles O40: with two pulses read, each conclusion is one branch of `checkCycle`. -/
theorem checksRunInOrder : Obligations.ChecksRunInOrder := by
  intro ib p f
  refine ⟨fun h => by simp only [classifyCycle, h], fun g1 l1 p1 h1 =>
    ⟨fun h => by simp only [classifyCycle, h1, h], fun g2 l2 p2 h2 => ?_⟩⟩
  rw [classifyCycle_pulses h1 h2]
  refine ⟨fun hg => if_pos hg, fun hg hratio => ?_, fun hg hratio => ?_⟩
  · rw [checkCycle, if_neg hg, if_pos ((ratioTooLarge_iff l1 l2).mpr hratio)]
  · rw [checkCycle_of_phase_ratio hg hratio]
    exact ⟨fun hf => if_pos hf, fun hf => if_neg hf⟩

/-- A cycle past the phase and ratio checks is accepted just when its frequency is within the tolerance. -/
theorem checkCycle_ok_iff {g1 g2 : Int} {l1 l2 : Nat} (hg : g1 ≠ g2) (hratio : 5 * max l1 l2 ≤ 8 * min l1 l2)
    (f next : Nat) : checkCycle f g1 l1 g2 l2 next = .ok l1 l2 next ↔ |(44100 : Int) - f * (l1 + l2)| ≤ 500 * (l1 + l2) := by
  rw [checkCycle_of_phase_ratio hg (not_lt.mpr hratio)]
  simp

/-- Settles O41: the frequency check, on integers, is a window on the length. -/
theorem acceptanceWindows : Obligations.AcceptanceWindows := by
  intro g1 g2 l1 l2 next hg hratio
  rw [checkCycle_ok_iff hg hratio, checkCycle_ok_iff hg hratio, abs_le, abs_le]
  push_cast
  omega

end Sys2Proof.Machine
end

section
/-! Every chunk completes or raises (R174, R268), and what the chunk rules 0x104, 0x113, 0x114 and 0x116 make of the state (R165,
R169 to R171, R173): their operands, read from the payload, and the branch of the rule that each operand selects. -/

namespace Sys2Proof.Machine

open Host (Outcome)
open Sys2Proof.Statement

/-! ### One effect per chunk -/

theorem exec_effect (i : Instr) (s : State) : ModEffect s (exec i s) := by
  cases i with
  | data p => exact execData_effect p s
  | dfmt p => exact execDfmt_effect p s
  | carrier p => exact execCarrier_effect p s
  | dummy p => exact execDummy_effect p s
  | gap p => exact execGap_effect p s
  | basefreq p => exact execBasefreq_effect p s
  | security p => exact execSecurity_effect p s
  | phase p => exact execPhase_effect p s
  | fgap p => exact execFgap_effect p s
  | chunk id p => exact execChunk_effect id p s

/-- An effect completes the chunk, or it is a fatal exception taken in the state the chunk began in. -/
theorem ModEffect.completes_or_raises {s : State} {o : Outcome State Fault Refusal} (h : ModEffect s o) :
    (∃ t, o = .next t ∧ t.mod.cp = s.mod.cp + 1 ∧ t.mod.status = s.mod.status)
      ∨ ∃ e, fatalForMod e ∧ o = .next (afterFault s e) := by
  cases h with
  | emits xs => exact .inl ⟨_, rfl, rfl, rfl⟩
  | setsFrequency f _ => exact .inl ⟨_, rfl, rfl, rfl⟩
  | setsPhase d => exact .inl ⟨_, rfl, rfl, rfl⟩
  | ignores id => exact .inl ⟨_, rfl, rfl, rfl⟩
  | raisesMalformed => exact .inr ⟨.malformedChunk, .inl rfl, rfl⟩
  | raisesInvalid => exact .inr ⟨.invalidValue, .inr rfl, rfl⟩

/-- Settles O25: each of the six effects a chunk can have is a completion or an exception. -/
theorem chunksAreAtomic : Obligations.ChunksAreAtomic :=
  fun i s => (exec_effect i s).completes_or_raises

/-! ### The dispatch of the chunks with operands (R160) -/

theorem exec_dfmt (payload : List Byte) (s : State) : exec (.dfmt payload) s = execDfmt payload s := rfl

theorem exec_basefreq (payload : List Byte) (s : State) : exec (.basefreq payload) s = execBasefreq payload s := rfl

theorem exec_security (payload : List Byte) (s : State) : exec (.security payload) s = execSecurity payload s := rfl

theorem exec_fgap (payload : List Byte) (s : State) : exec (.fgap payload) s = execFgap payload s := rfl

/-! ### The one-byte fields of a payload -/

theorem readU8_eq_some {payload : List Byte} {off : Nat} (h : off < payload.length) :
    readU8 payload off = some payload[off] := by
  have hfield : (payload.drop off).take 1 = [payload[off]] := by rw [List.drop_eq_getElem_cons h]; rfl
  have hread : memRead payload off 1 = some payload[off].toNat :=
    memRead_eq_some.mpr ⟨h, by simp [hfield, leNat]⟩
  rw [readU8, hread, Option.map_some, BitVec.ofNat_toNat, BitVec.setWidth_eq]

theorem readU8_eq_none {payload : List Byte} {off : Nat} (h : payload.length ≤ off) : readU8 payload off = none := by
  rw [readU8, memRead_eq_none.mpr (Nat.lt_succ_of_le h), Option.map_none]

/-! ### The `f32` field of a payload -/

theorem leNat_take_four {payload : List Byte} (h : 4 ≤ payload.length) :
    leNat (payload.take 4) = u16At payload 0 + 65536 * u16At payload 2 := by
  match payload, h with
  | a :: b :: c :: d :: rest, _ =>
    simp only [List.take_succ_cons, List.take_zero, leNat, u16At, List.getD_cons_zero, List.getD_cons_succ]
    omega

theorem readF32_eq_some {payload : List Byte} (h : 4 ≤ payload.length) :
    readF32 payload 0 = some (f32Value (f32At0 payload)) := by
  have hread : memRead payload 0 4 = some (u16At payload 0 + 65536 * u16At payload 2) :=
    memRead_eq_some.mpr ⟨h, (leNat_take_four h).symm⟩
  rw [readF32, hread]
  rfl

theorem readF32_eq_none {payload : List Byte} (h : payload.length < 4) : readF32 payload 0 = none := by
  rw [readF32, memRead_eq_none.mpr h, Option.map_none]

/-! ### 0x104 -/

theorem dfmtOperands_cons (nbits parity stops : Byte) (bytes : List Byte) :
    dfmtOperands (nbits :: parity :: stops :: bytes)
      = some { nbits := nbits.toNat, parity := parity, stops := stops.toInt, bytes := bytes } := by
  rw [dfmtOperands, readU8_eq_some (by simp), readU8_eq_some (by simp), readU8_eq_some (by simp)]
  rfl

/-- The operands of 0x104 are read just when the third field lies inside the payload. -/
theorem dfmtOperands_eq_none {payload : List Byte} (h : payload.length < 3) : dfmtOperands payload = none := by
  unfold dfmtOperands
  split
  next hthird =>
    rw [readU8_eq_none (Nat.le_of_lt_succ h)] at hthird
    cases hthird
  next => rfl

/-- Settles O16: the three fixed bytes are read just when the payload holds them. -/
theorem dfmtFramesAsConfigured : Obligations.DfmtFramesAsConfigured := by
  refine ⟨fun nbits parity stops bytes s => ?_, fun payload s hshort => ?_⟩
  · rw [exec_dfmt, execDfmt, dfmtOperands_cons]
    exact complete_emit s _
  · rw [exec_dfmt, execDfmt, dfmtOperands_eq_none hshort]
    exact raise_eq_afterFault _ s

/-! ### 0x113 -/

/-- Settles O20: the sign of a finite value decides; every other value raises. -/
theorem basefreqWritesOrRaises : Obligations.BasefreqWritesOrRaises := by
  intro payload s
  refine ⟨fun f hlong hvalue hpos => ?_, fun hlong hnonpos => ?_, fun hshort => ?_⟩
  · rw [exec_basefreq, execBasefreq, frequencyOperand, readF32_eq_some hlong, hvalue]
    exact if_pos (Rat.num_pos.mpr hpos)
  · rw [exec_basefreq, execBasefreq, frequencyOperand, readF32_eq_some hlong]
    cases hvalue : f32Value (f32At0 payload) with
    | finite f => exact if_neg (not_lt.mpr (Rat.num_nonpos.mpr (hnonpos f hvalue)))
    | infinite negative => exact raise_eq_afterFault _ s
    | nan => exact raise_eq_afterFault _ s
  · rw [exec_basefreq, execBasefreq, frequencyOperand, readF32_eq_none hshort]
    exact raise_eq_afterFault _ s

/-! ### 0x114 -/

theorem securityOperands_cons (formula : SecCountFormula) (lo hi first last : Byte) (bits : List Byte) :
    securityOperands formula (lo :: hi :: first :: last :: bits)
      = some { count := securityCount formula lo hi, first := first, last := last } := by
  rw [securityOperands, readU8_eq_some (by simp), readU8_eq_some (by simp), readU8_eq_some (by simp),
    readU8_eq_some (by simp)]
  rfl

/-- The fixed part of 0x114 is read just when its fourth field lies inside the payload. -/
theorem securityOperands_eq_none (formula : SecCountFormula) {payload : List Byte} (h : payload.length < 4) :
    securityOperands formula payload = none := by
  unfold securityOperands
  split
  next hfourth =>
    rw [readU8_eq_none (Nat.le_of_lt_succ h)] at hfourth
    cases hfourth
  next => rfl

theorem bitPayloadFits_cons (lo hi first last : Byte) (bits : List Byte) (count : Nat) :
    bitPayloadFits (lo :: hi :: first :: last :: bits) count = true ↔ (count + 7) / 8 ≤ bits.length :=
  decide_eq_true_iff

theorem securityBit_cons (lo hi first last : Byte) (bits : List Byte) (k : Nat) :
    securityBit (lo :: hi :: first :: last :: bits) k = (bits.getD (k / 8) 0).getLsbD (7 - k % 8) := by
  rw [securityBit, Nat.add_comm]
  rfl

/-- Settles O21: the fixed part and the bit payload are there, or one of the two checks raises. -/
theorem securityRendersABitEach : Obligations.SecurityRendersABitEach := by
  intro lo hi first last bits s count f
  refine ⟨fun hfits => ?_, fun hshort => ?_, fun payload hshort => ?_⟩
  · rw [exec_security, execSecurity, securityOperands_cons]
    refine (if_pos ((bitPayloadFits_cons lo hi first last bits count).mpr hfits)).trans ?_
    simp only [securityBit_cons]
    exact complete_emit s _
  · rw [exec_security, execSecurity, securityOperands_cons]
    exact if_neg ((bitPayloadFits_cons lo hi first last bits count).not.mpr (not_le.mpr hshort))
  · rw [exec_security, execSecurity, securityOperands_eq_none _ hshort]
    exact raise_eq_afterFault _ s

/-! ### 0x116 -/

theorem gapSampleCount_of_nonpos (rate : ℚ) {sec : ℚ} (h : sec ≤ 0) : gapSampleCount rate sec = 0 :=
  if_neg (not_lt.mpr (Rat.num_nonpos.mpr h))

theorem cast_num_toNat {x : ℚ} (hx : 0 < x) : (x.num.toNat : ℚ) = x.num := by
  exact_mod_cast Int.toNat_of_nonneg (Rat.num_pos.mpr hx).le

/-- The natural ratio that `gapSampleCount` rounds is the duration times the rate. -/
theorem seconds_mul_rate {sec rate : ℚ} (hsec : 0 < sec) (hrate : 0 < rate) :
    sec * rate = ((sec.num.toNat * rate.num.toNat : Nat) : ℚ) / (sec.den * rate.den : Nat) := by
  rw [Nat.cast_mul, Nat.cast_mul, cast_num_toNat hsec, cast_num_toNat hrate, mul_div_mul_comm, Rat.num_div_den, Rat.num_div_den]

theorem gapSampleCount_nearest {rate sec : ℚ} (hrate : 0 < rate) (hsec : 0 < sec) :
    |sec * rate - gapSampleCount rate sec| ≤ 1 / 2
      ∧ (|sec * rate - gapSampleCount rate sec| = 1 / 2 → gapSampleCount rate sec % 2 = 0) := by
  rw [gapSampleCount, if_pos (Rat.num_pos.mpr hsec), seconds_mul_rate hsec hrate]
  exact divRoundHalfEven_nearest _ (Nat.mul_pos sec.den_pos rate.den_pos)

theorem exec_fgap_of_finite {payload : List Byte} {sec : ℚ} (h : 4 ≤ payload.length)
    (hvalue : f32Value (f32At0 payload) = .finite sec) (s : State) :
    exec (.fgap payload) s = .next (afterEmit s (List.replicate (gapSampleCount s.cfg.rate sec) 0)) := by
  rw [exec_fgap, execFgap, secondsOperand, readF32_eq_some h, hvalue]
  exact complete_emit s _

/-- Settles O23: the count of a finite duration is nearest-even, and 0 for one that is not positive. -/
theorem fgapEmitsRoundedSilence : Obligations.FgapEmitsRoundedSilence := by
  intro payload s hrate
  refine ⟨fun sec hlong hvalue => ⟨fun hnonpos => ?_, fun hpos => ?_⟩, fun hlong hvalue => ?_, fun hshort => ?_⟩
  · rw [exec_fgap_of_finite hlong hvalue, gapSampleCount_of_nonpos _ hnonpos, List.replicate_zero]
  · exact ⟨gapSampleCount s.cfg.rate sec, exec_fgap_of_finite hlong hvalue s, gapSampleCount_nearest hrate hpos⟩
  · rw [exec_fgap, execFgap, secondsOperand, readF32_eq_some hlong]
    cases hcase : f32Value (f32At0 payload) with
    | finite sec => exact absurd hcase (hvalue sec)
    | infinite negative => exact raise_eq_afterFault _ s
    | nan => exact raise_eq_afterFault _ s
  · rw [exec_fgap, execFgap, secondsOperand, readF32_eq_none hshort]
    exact raise_eq_afterFault _ s

end Sys2Proof.Machine
end

section
/-! The layout of a frame (R162, R163): its data bits by division, its parity bit by the number of ones, and the tones of its
bits one group after another. -/

namespace Sys2Proof.Machine

/-- Bit `i` of a byte is the parity of its quotient by `2^i`, so 0 from index 8 on (R162). -/
theorem dataBits_eq_map_div (v : Byte) (nbits : Nat) :
    dataBits v nbits = (List.range nbits).map fun i => decide (v.toNat / 2 ^ i % 2 = 1) :=
  List.map_congr_left fun i _ => by rw [BitVec.getLsbD, Nat.testBit_eq_decide_div_mod_eq]

theorem foldl_xor_eq_xor_count (bits : List Bool) (b : Bool) :
    bits.foldl xor b = xor b (decide (bits.count true % 2 = 1)) := by
  induction bits generalizing b with
  | nil => simp
  | cons x bits ih =>
    rw [List.foldl_cons, ih, Bool.xor_assoc]
    cases x with
    | false => simp
    | true =>
      have hflip : decide ((bits.count true + 1) % 2 = 1) = !decide (bits.count true % 2 = 1) := by
        rw [← decide_not, decide_eq_decide]
        omega
      rw [List.count_cons_self, hflip, Bool.true_xor]

/-- The exclusive or of the data bits is 1 just when the ones among them are odd in number (R163). -/
theorem parityOf_eq_decide_count (bits : List Bool) : parityOf bits = decide (bits.count true % 2 = 1) := by
  rw [parityOf, foldl_xor_eq_xor_count, Bool.false_xor]

theorem flatMap_bitTone_parityBit (slow fast : List Sample) (parity : Byte) (bits : List Bool) :
    (parityBit parity bits).flatMap (bitTone slow fast)
      = if parity = 0x45 then bitTone slow fast (parityOf bits)
        else if parity = 0x4F then bitTone slow fast (!parityOf bits)
        else [] := by
  unfold parityBit
  split_ifs
  · exact List.flatMap_singleton _ _
  · exact List.flatMap_singleton _ _
  · rfl

/-- The tones of a frame's bits, group by group: start bit, data bits, parity bit, stop bits (R162). -/
theorem flatMap_bitTone_frameBits (slow fast : List Sample) (v : Byte) (nbits : Nat) (parity : Byte) (stops : Int) :
    (frameBits v nbits parity stops).flatMap (bitTone slow fast)
      = slow ++ (dataBits v nbits).flatMap (bitTone slow fast)
        ++ (parityBit parity (dataBits v nbits)).flatMap (bitTone slow fast)
        ++ (List.replicate stops.natAbs (fast ++ fast)).flatten := by
  have hstops : (List.replicate stops.natAbs true).flatMap (bitTone slow fast)
      = (List.replicate stops.natAbs (fast ++ fast)).flatten := by
    rw [List.flatMap_def, List.map_replicate]
    rfl
  rw [frameBits, List.flatMap_cons, List.flatMap_append, List.flatMap_append, hstops, ← List.append_assoc,
    ← List.append_assoc]
  rfl

/-- Settles O27: the tones group by group, with the data bits read by division and the parity by the count of ones. -/
theorem frameLayout : Obligations.FrameLayout := by
  intro slow fast v nbits parity stops bits odd tone
  have hbits : dataBits v nbits = bits := dataBits_eq_map_div v nbits
  have hodd : parityOf bits = odd := parityOf_eq_decide_count bits
  rw [frame, flatMap_bitTone_frameBits, flatMap_bitTone_parityBit, hbits, hodd]
  rfl

end Sys2Proof.Machine
end

section
/-! One step of the machine and one DEM step in each mode, every register written out (R160, R200, R206, R207, R209 to R221): an
equation for each shared operation of DEM first, then the step of each mode as a use of them. -/

namespace Sys2Proof.Machine

open Sys2Proof.Statement

/-! ### The unit that steps -/

theorem modRuns_eq_true_iff (s : State) : s.modRuns = true ↔ s.mod.status = .running := decide_eq_true_iff

theorem runs_eq_true_iff (d : Demodulator) : d.runs = true ↔ d.mode ≠ .done := decide_eq_true_iff

theorem nextUnit_eq_mod {s : State} (hrun : s.mod.status = .running) (hturn : s.active = .mod ∨ s.dem.mode = .done) :
    s.nextUnit = some .mod := by
  have hmod := (modRuns_eq_true_iff s).mpr hrun
  unfold State.nextUnit
  cases hactive : s.active with
  | mod => simp [hmod]
  | dem =>
    have hdone : s.dem.mode = .done := hturn.resolve_left (by simp [hactive])
    simp [hmod, runs_eq_true_iff, hdone]

theorem nextUnit_eq_dem {s : State} (hrun : s.dem.mode ≠ .done) (hturn : s.active = .dem ∨ s.mod.status ≠ .running) :
    s.nextUnit = some .dem := by
  have hdem := (runs_eq_true_iff s.dem).mpr hrun
  unfold State.nextUnit
  cases hactive : s.active with
  | dem => simp [hdem]
  | mod =>
    have hstopped : s.mod.status ≠ .running := hturn.resolve_left (by simp [hactive])
    simp [hdem, modRuns_eq_true_iff, hstopped]

theorem stepMod_eq_exec {s : State} {c : Chunk} (hfetch : s.cs[s.mod.cp]? = some c) :
    stepMod s = exec (decodeChunk c) s := by
  simp [stepMod, State.fetch, hfetch]

/-- Settles O9: the unit whose turn it is steps, MOD by the chunk its fetch finds. -/
theorem stepRunsDecodedChunk : Obligations.StepRunsDecodedChunk := by
  refine ⟨?_, fun s hrun hturn => ?_⟩
  · rintro s i c hrun hturn hfetch rfl
    rw [step, nextUnit_eq_mod hrun hturn]
    exact stepMod_eq_exec hfetch
  · rw [step, nextUnit_eq_dem hrun hturn]
    rfl

/-! ### The shared operations of DEM, each as one record -/

/-- `FlushGap(e)` (R206). -/
theorem Demodulator.flushGap_eq (d : Demodulator) (e : Nat) :
    d.flushGap e = { d with out := d.out ++ pendingEntry d e, gapPending := false } := by
  unfold Demodulator.flushGap pendingEntry gapEntry
  split_ifs with hpending hspan
  · rfl
  · simp
  · cases d
    simp_all

/-- `EmitCarrier()` (R207). -/
theorem Demodulator.emitCarrier_eq (d : Demodulator) : d.emitCarrier = { d with out := d.out ++ runEntries d } := rfl

/-- The run of `dem` is closed: the pending gap before it, then its Carrier chunks (R213, R221). -/
theorem Demodulator.emitCarrier_flushGap (d : Demodulator) : (d.flushGap d.runStart).emitCarrier
    = { d with out := d.out ++ pendingEntry d d.runStart ++ runEntries d, gapPending := false } := by
  rw [Demodulator.flushGap_eq]
  rfl

theorem Demodulator.joinByte_eq (d : Demodulator) (v : Byte) : d.joinByte v = { d with out := (d.joinByte v).out } := by
  unfold Demodulator.joinByte
  split
  · split_ifs <;> rfl
  · rfl

/-- `AppendByte(v)` changes the output and the pending flag only (R209). -/
theorem Demodulator.appendByte_eq (d : Demodulator) (v : Byte) :
    d.appendByte v = { d with out := (d.appendByte v).out, gapPending := false } := by
  rw [Demodulator.appendByte, Demodulator.joinByte_eq, Demodulator.flushGap_eq]

theorem Demodulator.extendLast_eq {d : Demodulator} {e : Emitted} (h : d.out.getLast? = some e) (stop : Nat) :
    d.extendLast stop = { d with out := d.out.dropLast ++ [{ e with stop := stop }] } := by
  simp [Demodulator.extendLast, h]

/-- The end of a run: closed when it is long enough, else kept for the next byte (R213, R214). -/
theorem Demodulator.endRun_eq (d : Demodulator) : d.endRun =
    if 19 ≤ d.c then
      { d with out := d.out ++ pendingEntry d d.runStart ++ runEntries d, gapPending := false, boundary := d.runEnd,
               origin := .carrier, dataStart := d.runEnd, mode := .startBit }
    else { d with origin := .short, dataStart := d.runStart, mode := .startBit } := by
  rw [Demodulator.endRun, Demodulator.emitCarrier_flushGap]
  rfl

/-- A gap is pending from where the output ends (R221). -/
theorem Demodulator.openGap_eq (d : Demodulator) : d.openGap = { d with gapStart := d.accounted, gapPending := true } := by
  unfold Demodulator.openGap Demodulator.accounted
  split_ifs with h
  · cases d
    simp_all
  · rfl

/-- What the end of the stream makes of the registers once the run in progress is dealt with (R221). -/
theorem Demodulator.endOfStream_eq (d : Demodulator) (len : Nat) : d.endOfStream len =
    { d.closeRun with out := d.closeRun.out ++ gapEntry d.closeRun.accounted len, gapStart := d.closeRun.accounted,
                      gapPending := false, mode := .done, status := .done } := by
  rw [Demodulator.endOfStream, Demodulator.openGap_eq, Demodulator.flushGap_eq]
  rfl

theorem Demodulator.closeRun_of_run {d : Demodulator} (hmode : d.mode = .carrier) (hc : 19 ≤ d.c) : d.closeRun =
    { d with out := d.out ++ pendingEntry d d.runStart ++ runEntries d, gapPending := false, boundary := d.runEnd } := by
  rw [Demodulator.closeRun, if_pos ⟨hmode, hc⟩, Demodulator.emitCarrier_flushGap]

theorem Demodulator.closeRun_of_no_run {d : Demodulator} (h : d.mode ≠ .carrier ∨ d.c < 19) : d.closeRun = d :=
  if_neg fun ⟨hmode, hc⟩ => h.elim (· hmode) (not_lt.mpr hc)

/-- Settles O49: the two cases of the run in progress, and the tail from where the output then ends. -/
theorem endOfStreamCloses : Obligations.EndOfStreamCloses := by
  refine fun d len => ⟨fun hmode hc => ?_, fun h => ?_⟩
  · rw [Demodulator.endOfStream_eq, Demodulator.closeRun_of_run hmode hc]
    rfl
  · rw [Demodulator.endOfStream_eq, Demodulator.closeRun_of_no_run h]
    rfl

/-- Settles O48: the two cases of a pending gap. -/
theorem failureResumes : Obligations.FailureResumes := by
  refine fun d => ⟨fun h => ?_, fun h => ?_⟩
  · rw [Demodulator.failure_eq, h]
    rfl
  · rw [Demodulator.failure_eq, h]
    rfl

/-! ### The step of each mode -/

theorem demStep_sync (ib : List Sample) {d : Demodulator} (h : d.mode = .sync) : demStep ib d = syncStep ib d := by
  simp [demStep, h]

theorem demStep_carrier (ib : List Sample) {d : Demodulator} (h : d.mode = .carrier) :
    demStep ib d = carrierStep ib d := by
  simp [demStep, h]

theorem demStep_startBit (ib : List Sample) {d : Demodulator} (h : d.mode = .startBit) :
    demStep ib d = startBitStep ib d := by
  simp [demStep, h]

theorem demStep_byte (ib : List Sample) {d : Demodulator} (h : d.mode = .byte) : demStep ib d = byteStep ib d := by
  simp [demStep, h]

theorem demStep_stopBit (ib : List Sample) {d : Demodulator} (h : d.mode = .stopBit) :
    demStep ib d = stopBitStep ib d := by
  simp [demStep, h]

/-- Settles O43: the two answers of `ReadPulse`. -/
theorem syncStep_spec : Obligations.SyncStep := by
  intro ib d hmode
  rw [demStep_sync ib hmode]
  refine ⟨fun g len next hr => ?_, fun hr => ?_⟩
  · rw [syncStep, hr]
    rfl
  · rw [syncStep, hr]

/-- A classification that is neither a cycle nor the end of the stream is one of the three mismatches (R142). -/
theorem CycleResult.mismatch {r : CycleResult} (hok : ∀ l1 l2 next : Nat, r ≠ .ok l1 l2 next) (hend : r ≠ .endOfStream) :
    r = .phaseMismatch ∨ r = .ratioMismatch ∨ r = .frequencyMismatch := by
  cases r with
  | ok l1 l2 next => exact absurd rfl (hok l1 l2 next)
  | endOfStream => exact absurd rfl hend
  | phaseMismatch => exact .inl rfl
  | ratioMismatch => exact .inr (.inl rfl)
  | frequencyMismatch => exact .inr (.inr rfl)

/-- Settles O44: each mismatch ends the run, which `endRun_eq` writes out. -/
theorem carrierStep_spec : Obligations.CarrierStep := by
  intro ib d hmode
  rw [demStep_carrier ib hmode, carrierStep, ← Demodulator.endRun_eq, fFast]
  refine ⟨fun l1 l2 next hc => ?_, fun hc => ?_, fun hok hend => ?_⟩
  · rw [hc]
    rfl
  · rw [hc]
  · obtain hc | hc | hc := CycleResult.mismatch hok hend <;> rw [hc]

theorem startBitStep_of_mismatch {ib : List Sample} {d : Demodulator}
    (hok : ∀ l1 l2 next : Nat, classifyCycle ib d.pos fSlow ≠ .ok l1 l2 next)
    (hend : classifyCycle ib d.pos fSlow ≠ .endOfStream) : startBitStep ib d = startBitFailure ib d := by
  obtain hc | hc | hc := CycleResult.mismatch hok hend <;> rw [startBitStep, hc]

/-- Settles O45: a mismatch at 1200 Hz leaves the choice to `startBitFailure`, which reads on only after a stop bit. -/
theorem startBitStep_spec : Obligations.StartBitStep := by
  intro ib d hmode
  rw [demStep_startBit ib hmode]
  refine ⟨fun l1 l2 next hc => ?_, fun hc => ?_, fun hok hend => ?_⟩
  · rw [startBitStep, fSlow, hc]
    rfl
  · rw [startBitStep, fSlow, hc]
  · rw [startBitStep_of_mismatch hok hend, startBitFailure, fFast]
    refine ⟨fun horigin => ?_, fun horigin => if_neg ?_⟩
    · rw [if_pos horigin]
      refine ⟨fun l1 l2 next hc => ?_, fun hc => ?_, fun hok hend => ?_⟩
      · rw [hc]
        rfl
      · rw [hc]
      · obtain hc | hc | hc := CycleResult.mismatch hok hend <;> rw [hc]
    · obtain h | h := horigin <;> simp [h]

/-- The output after `AppendByte(v)`: once the gap is closed, the last chunk takes the byte if that is Data, else a Data chunk
opens (R206, R209). -/
theorem Demodulator.appendByte_out (d : Demodulator) (v : Byte) :
    (∃ e, (d.out ++ pendingEntry d d.dataStart).getLast? = some e ∧ e.chunk.id = 0x0100
        ∧ (d.appendByte v).out = (d.out ++ pendingEntry d d.dataStart).dropLast
          ++ [{ chunk := dataChunk (e.chunk.payload ++ [v]), start := e.start, stop := d.pos }])
      ∨ ((∀ e, (d.out ++ pendingEntry d d.dataStart).getLast? = some e → e.chunk.id ≠ 0x0100)
        ∧ (d.appendByte v).out = d.out ++ pendingEntry d d.dataStart
          ++ [{ chunk := dataChunk [v], start := d.dataStart, stop := d.pos }]) := by
  have h := (d.flushGap d.dataStart).joinByte_out v
  rw [← Demodulator.appendByte, Demodulator.flushGap_pos, Demodulator.flushGap_dataStart, Demodulator.flushGap_eq] at h
  exact h

/-- Settles O46: the eighth bit completes the byte, whose place in the output `AppendByte` decides. -/
theorem byteStep_spec : Obligations.ByteStep := by
  intro ib d hmode
  rw [demStep_byte ib hmode, byteStep]
  refine ⟨fun b next hr => ⟨fun hb => ?_, fun hb => ?_⟩, fun hr => ?_, fun hr => ?_⟩
  · rw [hr]
    exact if_neg (by omega)
  · refine ⟨((d.takeBit b next).appendByte (d.takeBit b next).acc).out, ?_, ?_⟩
    · rw [hr]
      simp only
      rw [if_pos (by omega), Demodulator.completeByte, Demodulator.appendByte_eq]
      rfl
    · obtain ⟨e, hlast, hdata, hout⟩ | ⟨hnone, hout⟩ := (d.takeBit b next).appendByte_out (d.takeBit b next).acc
      · refine ⟨fun e' hlast' _ => ?_, fun hnone => absurd hdata (hnone e hlast)⟩
        obtain rfl : e = e' := Option.some.inj (hlast.symm.trans hlast')
        exact hout
      · exact ⟨fun e hlast hdata => absurd hdata (hnone e hlast), fun _ => hout⟩
  · rw [hr]
  · rw [hr]

/-- Settles O47: the three answers of `ReadStop`; only the last span changes. -/
theorem stopBitStep_spec : Obligations.StopBitStep := by
  intro ib d e hmode hlast
  rw [demStep_stopBit ib hmode, stopBitStep]
  refine ⟨fun next hr => ?_, fun hr => ?_, fun hr => ?_⟩
  · rw [hr]
    simp only
    rw [Demodulator.takeStop, Demodulator.extendLast_eq hlast]
  · rw [hr]
  · rw [hr]

end Sys2Proof.Machine
end

section
/-! How a run is split into Carrier chunks (R207), and what a DEM step may change of the output (R205). -/

namespace Sys2Proof.Machine

open Sys2Proof.Statement

/-! ### The Carrier chunks of a run -/

theorem carrierCounts_eq (cycles : Nat) : carrierCounts cycles = if cycles ≤ 65535 then [cycles]
    else List.replicate (cycles / 65535) 65535 ++ if cycles % 65535 = 0 then [] else [cycles % 65535] := rfl

theorem carrierCounts_sum (cycles : Nat) : (carrierCounts cycles).sum = cycles := by
  rw [carrierCounts_eq]
  split_ifs with hfits hrest
  · simp
  · simp only [List.append_nil, List.sum_replicate, smul_eq_mul]
    omega
  · simp only [List.sum_append, List.sum_replicate, smul_eq_mul, List.sum_singleton]
    omega

theorem mem_carrierCounts {cycles n : Nat} (h : n ∈ carrierCounts cycles) : n ≤ 65535 ∧ (0 < cycles → 0 < n) := by
  rw [carrierCounts_eq] at h
  split_ifs at h with hfits hrest
  · obtain rfl := List.mem_singleton.mp h
    exact ⟨hfits, id⟩
  · rw [List.append_nil] at h
    obtain rfl := List.eq_of_mem_replicate h
    omega
  · obtain h | h := List.mem_append.mp h
    · obtain rfl := List.eq_of_mem_replicate h
      omega
    · obtain rfl := List.mem_singleton.mp h
      omega

/-- The nearest count is never half-way: `2400 / 44100` is `8 / 147`, whose denominator is odd (R207). -/
theorem carrierCycles_nearest (span : Nat) : |(span : ℚ) * 2400 / 44100 - carrierCycles span| < 1 / 2 := by
  have hnear := (divRoundHalfEven_nearest (span * carrierRate) (b := rDem) (by decide)).1
  have hcast : ((span * carrierRate : Nat) : ℚ) / (rDem : Nat) = (span : ℚ) * 2400 / 44100 := by
    norm_num [carrierRate, rDem]
  rw [hcast] at hnear
  refine lt_of_le_of_ne hnear fun htie => ?_
  have hodd : |(16 * span - 294 * carrierCycles span : ℤ)| = 147 := by
    have hscale : ((16 * span - 294 * carrierCycles span : ℤ) : ℚ)
        = 294 * ((span : ℚ) * 2400 / 44100 - carrierCycles span) := by push_cast; ring
    have : |((16 * span - 294 * carrierCycles span : ℤ) : ℚ)| = 147 := by
      rw [hscale, abs_mul, htie]
      norm_num
    exact_mod_cast this
  obtain h | h := (abs_eq (by norm_num)).mp hodd <;> omega

/-- The entries of a run, with every payload written out. -/
theorem carrierEntries_eq_runOf (start stop : Nat) (counts : List Nat) :
    carrierEntries start stop counts = runOf start stop counts := by
  have hempty (rest : List Nat) : rest.map (fun k => ({ chunk := carrierChunk k, start := stop, stop := stop } : Emitted))
      = List.zipWith (fun n span => { chunk := { id := 0x0110, payload := u16Bytes n }, start := span.1, stop := span.2 })
        rest (List.replicate rest.length (stop, stop)) := by
    induction rest with
    | nil => rfl
    | cons k rest ih => exact congrArg (_ :: ·) ih
  cases counts with
  | nil => rfl
  | cons n rest => exact congrArg (_ :: ·) (hempty rest)

/-- Settles O50: the counts are those of the split, and the nearest count is never half-way. -/
theorem carrierSplitKeepsTheTotal : Obligations.CarrierSplitKeepsTheTotal := by
  refine ⟨fun cycles => ⟨carrierCounts_sum cycles, fun n hn => (mem_carrierCounts hn).1, fun h => if_pos h,
    fun hpos n hn => (mem_carrierCounts hn).2 hpos⟩, fun d => ?_⟩
  have hentries : runEntries d = runOf d.runStart d.runEnd (carrierCounts (carrierCycles (d.runEnd - d.runStart))) :=
    carrierEntries_eq_runOf _ _ _
  exact ⟨_, _, carrierCycles_nearest _, carrierCounts_eq _, hentries, by rw [← hentries, Demodulator.emitCarrier_eq]⟩

/-! ### What a step changes of the output -/

theorem gapEntry_eq_nil_or (a b : Nat) :
    gapEntry a b = [] ∨ gapEntry a b = [{ chunk := gapChunk (b - a), start := a, stop := b }] := by
  unfold gapEntry
  split_ifs
  · exact .inr rfl
  · exact .inl rfl

/-- The last entry after the pending gap is closed is Data only if no Gap was emitted. -/
theorem pendingEntry_eq_nil_of_data {d : Demodulator} {stop : Nat} {e : Emitted}
    (hlast : (d.out ++ pendingEntry d stop).getLast? = some e) (hdata : e.chunk.id = 0x0100) :
    pendingEntry d stop = [] := by
  have hcases : pendingEntry d stop = []
      ∨ ∃ k a b, pendingEntry d stop = [{ chunk := gapChunk k, start := a, stop := b }] := by
    unfold pendingEntry
    split_ifs
    · exact (gapEntry_eq_nil_or _ _).imp_right fun h => ⟨_, _, _, h⟩
    · exact .inl rfl
  refine hcases.resolve_right ?_
  rintro ⟨k, a, b, h⟩
  rw [h, List.getLast?_append_of_ne_nil _ (by simp)] at hlast
  obtain rfl := Option.some.inj hlast
  exact absurd hdata (show (0x0116 : U16) ≠ 0x0100 by decide)

theorem Demodulator.out_prefix_closeRun (d : Demodulator) : d.out <+: d.closeRun.out := by
  unfold Demodulator.closeRun
  split_ifs
  · rw [Demodulator.emitCarrier_flushGap, List.append_assoc]
    exact List.prefix_append _ _
  · exact List.prefix_refl _

theorem Demodulator.out_prefix_endOfStream (d : Demodulator) (len : Nat) : d.out <+: (d.endOfStream len).out := by
  rw [Demodulator.endOfStream_eq]
  exact d.out_prefix_closeRun.trans (List.prefix_append _ _)

theorem Demodulator.out_prefix_endRun (d : Demodulator) : d.out <+: d.endRun.out := by
  rw [Demodulator.endRun_eq]
  split_ifs
  · rw [List.append_assoc]
    exact List.prefix_append _ _
  · exact List.prefix_refl _

/-- The codec copy after a run is closed or a stream ends (R29). -/
theorem Demodulator.closeRun_codec (d : Demodulator) :
    d.closeRun.baseFrequency = d.baseFrequency ∧ d.closeRun.phase = d.phase := by
  unfold Demodulator.closeRun
  split_ifs
  · rw [Demodulator.emitCarrier_flushGap]
    exact ⟨rfl, rfl⟩
  · exact ⟨rfl, rfl⟩

/-- No move writes DEM's codec copy (R29). -/
theorem DemMove.codec {ib : List Sample} {d d' : Demodulator} (h : DemMove ib d d') :
    d'.baseFrequency = d.baseFrequency ∧ d'.phase = d.phase := by
  cases h with
  | ends =>
    rw [Demodulator.endOfStream_eq]
    exact d.closeRun_codec
  | accepts | scans | counts | starts | restarts | takes => exact ⟨rfl, rfl⟩
  | endsRun =>
    rw [Demodulator.endRun_eq]
    split_ifs <;> exact ⟨rfl, rfl⟩
  | completes _ b p =>
    simp [Demodulator.completeByte]
  | stops _ p => simp [Demodulator.takeStop]
  | fails =>
    rw [Demodulator.failure_eq]
    exact ⟨rfl, rfl⟩

/-- `d'` keeps the output of `d`, but its last chunk, if Data, may take one byte and then ends at the cursor (R205). -/
def KeepsOutput (d d' : Demodulator) : Prop :=
  d.out <+: d'.out ∨ ∃ (e : Emitted) (added : List Byte),
    d.out.getLast? = some e ∧ e.chunk.id = 0x0100 ∧ added.length ≤ 1 ∧ d'.out = d.out.dropLast
      ++ [{ chunk := { id := 0x0100, payload := e.chunk.payload ++ added }, start := e.start, stop := d'.pos }]

theorem keepsOutput_completeByte (d : Demodulator) : KeepsOutput d d.completeByte := by
  obtain ⟨e, hlast, hdata, hout⟩ | ⟨-, hout⟩ := d.appendByte_out d.acc
  · have hnil := pendingEntry_eq_nil_of_data hlast hdata
    rw [hnil, List.append_nil] at hlast hout
    refine .inr ⟨e, [d.acc], hlast, hdata, le_rfl, ?_⟩
    rw [Demodulator.completeByte, Demodulator.appendByte_pos]
    exact hout
  · refine .inl ?_
    rw [Demodulator.completeByte, hout, List.append_assoc]
    exact List.prefix_append _ _

theorem keepsOutput_takeStop {d : Demodulator} (hdata : lastIsData d.out) (p : Nat) : KeepsOutput d (d.takeStop p) := by
  obtain ⟨e, hlast, hid⟩ := hdata
  refine .inr ⟨e, [], hlast, hid, Nat.zero_le _, ?_⟩
  rw [Demodulator.takeStop, Demodulator.extendLast_eq hlast, List.append_nil, ← hid]

theorem DemMove.keepsOutput {ib : List Sample} {d d' : Demodulator} (h : DemMove ib d d')
    (hdata : d.mode ≠ .stopBit ∨ lastIsData d.out) : KeepsOutput d d' := by
  cases h with
  | ends => exact .inl (d.out_prefix_endOfStream _)
  | accepts | scans | counts | starts | restarts | takes => exact .inl (List.prefix_refl _)
  | endsRun => exact .inl d.out_prefix_endRun
  | completes _ b p => exact keepsOutput_completeByte (d.takeBit b p)
  | stops hmode p => exact keepsOutput_takeStop (hdata.resolve_left (not_not.mpr hmode)) p
  | fails =>
    rw [Demodulator.failure_eq]
    exact .inl (List.prefix_refl _)

/-- Settles O52, move by move; `Done` has none. -/
theorem outputOnlyGrows : Obligations.OutputOnlyGrows := by
  intro ib d
  by_cases hdone : d.mode = .done
  · rw [demStep_done ib d hdone]
    exact ⟨rfl, rfl, fun _ => .inl (List.prefix_refl _)⟩
  · have hmove := demStep_move ib d hdone
    exact ⟨hmove.codec.1, hmove.codec.2, hmove.keepsOutput⟩

end Sys2Proof.Machine
end

section
/-! The output tiles the input (R203, R204, R223, R224): how each way of extending the output keeps `OutputInv`, and that every DEM
step keeps `DemInv`, one lemma per move. -/

namespace Sys2Proof.Machine

open Sys2Proof.Statement

/-! ### Appending to an output -/

/-- Where spans that follow one another from `start` end. -/
def stopFrom (start : Nat) : List Emitted → Nat
  | [] => start
  | e :: rest => stopFrom e.stop rest

theorem getLast?_stop_getD (start : Nat) (out : List Emitted) :
    (out.getLast?.map Emitted.stop).getD start = stopFrom start out := by
  induction out generalizing start with
  | nil => rfl
  | cons e rest ih =>
    rw [stopFrom, ← ih, List.getLast?_cons]
    cases rest.getLast? <;> rfl

theorem lastStop_eq_stopFrom (out : List Emitted) : lastStop out = stopFrom 0 out := getLast?_stop_getD 0 out

theorem tilesFrom_append (start : Nat) (xs ys : List Emitted) :
    tilesFrom start (xs ++ ys) ↔ tilesFrom start xs ∧ tilesFrom (stopFrom start xs) ys := by
  induction xs generalizing start with
  | nil => simp [tilesFrom, stopFrom]
  | cons e rest ih => simp only [List.cons_append, tilesFrom, stopFrom, ih, and_assoc]

theorem lastStop_append_singleton (out : List Emitted) (e : Emitted) : lastStop (out ++ [e]) = e.stop := by
  simp [lastStop]

theorem lastIsNoGap_append_singleton (out : List Emitted) (e : Emitted) : lastIsNoGap (out ++ [e]) ↔ ¬e.isGap := by
  simp [lastIsNoGap]

theorem noAdjacentGaps_append_singleton (out : List Emitted) (e : Emitted) :
    noAdjacentGaps (out ++ [e]) ↔ noAdjacentGaps out ∧ (e.isGap → lastIsNoGap out) := by
  induction out with
  | nil => simp [noAdjacentGaps, lastIsNoGap]
  | cons x rest ih =>
    cases rest with
    | nil => simp [noAdjacentGaps, lastIsNoGap, imp_not_comm]
    | cons y rest =>
      have hlast : lastIsNoGap (x :: y :: rest) ↔ lastIsNoGap (y :: rest) := by
        rw [lastIsNoGap, List.getLast?_cons_cons, ← lastIsNoGap]
      rw [hlast, noAdjacentGaps, and_assoc, ← ih]
      rfl

theorem lastIsNoGap_of_lastIsData {out : List Emitted} (h : lastIsData out) : lastIsNoGap out := by
  obtain ⟨e, hlast, hid⟩ := h
  intro e' hlast' hgap
  obtain rfl : e = e' := Option.some.inj (hlast.symm.trans hlast')
  exact absurd (hid.symm.trans hgap) (by decide)

theorem outputInv_append_singleton (out : List Emitted) (e : Emitted) : OutputInv (out ++ [e])
    ↔ OutputInv out ∧ e.legal ∧ e.start = lastStop out ∧ e.start ≤ e.stop ∧ (e.isGap → lastIsNoGap out) := by
  have htiles := tilesFrom_append 0 out [e]
  have hgaps := noAdjacentGaps_append_singleton out e
  simp only [tilesFrom, and_true, ← lastStop_eq_stopFrom] at htiles
  constructor
  · rintro ⟨hlegal, htile, hgap⟩
    obtain ⟨hrest, hstart, hle⟩ := htiles.mp htile
    obtain ⟨hapart, hno⟩ := hgaps.mp hgap
    exact ⟨⟨fun x hx => hlegal x (by simp [hx]), hrest, hapart⟩, hlegal e (by simp), hstart, hle, hno⟩
  · rintro ⟨⟨hlegal, hrest, hapart⟩, he, hstart, hle, hno⟩
    refine ⟨fun x hx => ?_, htiles.mpr ⟨hrest, hstart, hle⟩, hgaps.mpr ⟨hapart, hno⟩⟩
    obtain hx | hx := List.mem_append.mp hx
    · exact hlegal x hx
    · exact List.mem_singleton.mp hx ▸ he

/-- A well-formed output whose spans end at `n`. -/
structure TilesTo (n : Nat) (out : List Emitted) : Prop where
  inv : OutputInv out
  stop : lastStop out = n

section
variable {n : Nat} {out : List Emitted}

theorem TilesTo.append_singleton (h : TilesTo n out) {e : Emitted} (hlegal : e.legal) (hstart : e.start = n)
    (hle : e.start ≤ e.stop) (hgap : e.isGap → lastIsNoGap out) : TilesTo e.stop (out ++ [e]) :=
  ⟨(outputInv_append_singleton out e).mpr ⟨h.inv, hlegal, hstart.trans h.stop.symm, hle, hgap⟩,
    lastStop_append_singleton out e⟩

/-- The last entry is replaced by one that starts at the same offset and ends no earlier. -/
theorem TilesTo.replace_last (h : TilesTo n out) {e e' : Emitted} (hlast : out.getLast? = some e) (hlegal : e'.legal)
    (hstart : e'.start = e.start) (hle : n ≤ e'.stop) (hgap : ¬e'.isGap) : TilesTo e'.stop (out.dropLast ++ [e']) := by
  have hout : out.dropLast ++ [e] = out := List.dropLast_append_getLast? e hlast
  have hinv := h.inv
  have hstop := h.stop
  rw [← hout, outputInv_append_singleton] at hinv
  rw [← hout, lastStop_append_singleton] at hstop
  obtain ⟨hrest, -, hprev, hspan, -⟩ := hinv
  exact TilesTo.append_singleton ⟨hrest, rfl⟩ hlegal (hstart.trans hprev) (by omega) (absurd · hgap)

theorem gapEntry_legal (start stop : Nat) :
    ({ chunk := gapChunk (stop - start), start := start, stop := stop } : Emitted).legal :=
  .inr (.inr ⟨rfl, leBytes_length _ _⟩)

theorem TilesTo.append_gapEntry (h : TilesTo n out) (hno : lastIsNoGap out) {stop : Nat} (hle : n ≤ stop) :
    TilesTo stop (out ++ gapEntry n stop) := by
  unfold gapEntry
  split_ifs with hlt
  · exact h.append_singleton (gapEntry_legal n stop) rfl hle fun _ => hno
  · obtain rfl : n = stop := by omega
    simpa using h

theorem carrierEntry_legal (count start stop : Nat) :
    ({ chunk := carrierChunk count, start := start, stop := stop } : Emitted).legal :=
  .inr (.inl ⟨rfl, leBytes_length _ _⟩)

theorem carrierEntry_not_gap (count start stop : Nat) :
    ¬({ chunk := carrierChunk count, start := start, stop := stop } : Emitted).isGap :=
  show ¬(0x0110 : U16) = 0x0116 by decide

theorem dataEntry_legal (bytes : List Byte) (v : Byte) (start stop : Nat) :
    ({ chunk := dataChunk (bytes ++ [v]), start := start, stop := stop } : Emitted).legal :=
  .inl ⟨rfl, by simp [dataChunk]⟩

theorem dataEntry_not_gap (bytes : List Byte) (start stop : Nat) :
    ¬({ chunk := dataChunk bytes, start := start, stop := stop } : Emitted).isGap :=
  show ¬(0x0100 : U16) = 0x0116 by decide

/-- The later chunks of a split run, all of the empty span, move nothing (R207). -/
theorem TilesTo.append_empty_carriers (h : TilesTo n out) (hno : lastIsNoGap out) (counts : List Nat) :
    TilesTo n (out ++ counts.map fun k => { chunk := carrierChunk k, start := n, stop := n })
      ∧ lastIsNoGap (out ++ counts.map fun k => { chunk := carrierChunk k, start := n, stop := n }) := by
  induction counts generalizing out with
  | nil => simpa using ⟨h, hno⟩
  | cons k counts ih =>
    have hk := h.append_singleton (carrierEntry_legal k n n) rfl le_rfl fun _ => hno
    have := ih hk ((lastIsNoGap_append_singleton _ _).mpr (carrierEntry_not_gap k n n))
    simpa using this

theorem TilesTo.append_carrierEntries (h : TilesTo n out) {stop : Nat} (hle : n ≤ stop) {counts : List Nat}
    (hcounts : counts ≠ []) :
    TilesTo stop (out ++ carrierEntries n stop counts) ∧ lastIsNoGap (out ++ carrierEntries n stop counts) := by
  obtain ⟨k, rest, rfl⟩ := List.exists_cons_of_ne_nil hcounts
  have hnone := carrierEntry_not_gap k n stop
  have hk := h.append_singleton (carrierEntry_legal k n stop) rfl hle (absurd · hnone)
  have := hk.append_empty_carriers ((lastIsNoGap_append_singleton _ _).mpr hnone) rest
  rwa [List.append_assoc] at this

end

/-! ### What the invariant says in each mode -/

section
variable {len : Nat} {d : Demodulator}

theorem modeAgrees_sync (hm : d.mode = .sync) :
    d.modeAgrees len ↔ d.gapPending = true ∧ d.gapStart ≤ d.pos ∧ d.pos ≤ len := by
  simp [Demodulator.modeAgrees, hm]

theorem modeAgrees_carrier (hm : d.mode = .carrier) : d.modeAgrees len ↔ EpisodeInv len d ∧ RunInv d := by
  simp [Demodulator.modeAgrees, hm]

theorem modeAgrees_startBit (hm : d.mode = .startBit) :
    d.modeAgrees len ↔ EpisodeInv len d ∧ d.originAgrees ∧ (d.origin = .stopBit → d.pos = d.boundary) := by
  simp [Demodulator.modeAgrees, hm]

theorem modeAgrees_byte (hm : d.mode = .byte) : d.modeAgrees len
    ↔ EpisodeInv len d ∧ d.originAgrees ∧ d.anchor < d.pos ∧ d.bitIdx < 8 ∧ d.acc.toNat < 2 ^ d.bitIdx := by
  simp [Demodulator.modeAgrees, hm]

theorem modeAgrees_stopBit (hm : d.mode = .stopBit) : d.modeAgrees len
    ↔ EpisodeInv len d ∧ d.gapPending = false ∧ d.boundary = d.pos ∧ lastIsData d.out := by
  simp [Demodulator.modeAgrees, hm]

theorem originAgrees_carrier (ho : d.origin = .carrier) :
    d.originAgrees ↔ d.gapPending = false ∧ d.dataStart = d.boundary := by
  simp [Demodulator.originAgrees, ho]

theorem originAgrees_short (ho : d.origin = .short) : d.originAgrees ↔ d.dataStart = d.openAt := by
  simp [Demodulator.originAgrees, ho]

theorem originAgrees_stopBit (ho : d.origin = .stopBit) :
    d.originAgrees ↔ d.gapPending = false ∧ lastIsData d.out := by
  simp [Demodulator.originAgrees, ho]

/-- The positions in order: what is accounted for, where a span may open, the cursor, the end of the buffer. -/
theorem EpisodeInv.positions (h : EpisodeInv len d) :
    d.accounted ≤ d.openAt ∧ d.anchor ≤ d.openAt ∧ d.openAt ≤ d.pos ∧ d.pos ≤ len := by
  have hin := h.inside
  unfold Demodulator.accounted Demodulator.openAt
  cases hp : d.gapPending with
  | true =>
    have := h.pending hp
    simp only [if_true]
    omega
  | false =>
    have := h.confirmed hp
    simp only [Bool.false_eq_true, if_false]
    omega

/-- The cursor may move forward inside the buffer. -/
theorem EpisodeInv.advance (h : EpisodeInv len d) {d' : Demodulator} (hanchor : d'.anchor = d.anchor)
    (hboundary : d'.boundary = d.boundary) (hpending : d'.gapPending = d.gapPending) (hgap : d'.gapStart = d.gapStart)
    (hpos : d.pos ≤ d'.pos) (hlen : d'.pos ≤ len) : EpisodeInv len d' where
  anchored := hanchor ▸ h.anchored
  inside := hlen
  pending hp := by
    have := h.pending (hpending ▸ hp)
    omega
  confirmed hp := by
    have := h.confirmed (hpending ▸ hp)
    omega

/-- An episode whose boundary is now the cursor. -/
theorem EpisodeInv.of_boundary_eq_pos (hanchored : d.anchor < len) (hlt : d.anchor < d.pos) (hlen : d.pos ≤ len)
    (hpending : d.gapPending = false) (hboundary : d.boundary = d.pos) : EpisodeInv len d where
  anchored := hanchored
  inside := hlen
  pending hp := absurd (hpending.symm.trans hp) (by decide)
  confirmed _ := by omega

theorem DemInv.tilesTo (h : DemInv len d) (hrun : d.mode ≠ .done) : TilesTo d.accounted d.out :=
  ⟨h.output, (h.accounts hrun).1⟩

theorem DemInv.running (h : DemInv len d) (hrun : d.mode ≠ .done) : d.status ≠ .done := fun hs => hrun (h.status.mp hs)

/-- The invariant in a mode that has a step. -/
theorem demInv_of_running (hcodec : d.baseFrequency = 1200 ∧ d.phase = 180) (hstatus : d.status ≠ .done)
    (hrun : d.mode ≠ .done) (htiles : TilesTo d.accounted d.out) (hno : lastIsNoGap d.out) (hmode : d.modeAgrees len) :
    DemInv len d where
  codec := hcodec
  output := htiles.inv
  status := iff_of_false hstatus hrun
  ended hdone := absurd hdone hrun
  accounts _ := ⟨htiles.stop, hno⟩
  mode := hmode

theorem DemInv.accounted_le (h : DemInv len d) (hrun : d.mode ≠ .done) : d.accounted ≤ len := by
  have hepisode : EpisodeInv len d → d.accounted ≤ len := fun he => by
    have := he.positions
    omega
  have hmode := h.mode
  cases hm : d.mode with
  | done => exact absurd hm hrun
  | sync =>
    obtain ⟨hpending, hgap, hpos⟩ := (modeAgrees_sync hm).mp hmode
    rw [Demodulator.accounted, if_pos hpending]
    omega
  | carrier => exact hepisode ((modeAgrees_carrier hm).mp hmode).1
  | startBit => exact hepisode ((modeAgrees_startBit hm).mp hmode).1
  | byte => exact hepisode ((modeAgrees_byte hm).mp hmode).1
  | stopBit => exact hepisode ((modeAgrees_stopBit hm).mp hmode).1

/-! ### Closing the gap, the run and the byte -/

theorem pendingEntry_of_pending (hp : d.gapPending = true) (stop : Nat) : pendingEntry d stop = gapEntry d.gapStart stop :=
  if_pos hp

theorem pendingEntry_of_not_pending (hp : d.gapPending = false) (stop : Nat) : pendingEntry d stop = [] := by
  simp [pendingEntry, hp]

theorem accounted_of_not_pending (hp : d.gapPending = false) : d.accounted = d.boundary := by
  simp [Demodulator.accounted, hp]

/-- Once the pending gap is closed where a span may open, the output ends there (R204, R206). -/
theorem TilesTo.append_pendingEntry (h : TilesTo d.accounted d.out) (hno : lastIsNoGap d.out) (he : EpisodeInv len d) :
    TilesTo d.openAt (d.out ++ pendingEntry d d.openAt) := by
  have hle := he.positions.1
  cases hp : d.gapPending with
  | true =>
    have hacc : d.accounted = d.gapStart := if_pos hp
    rw [pendingEntry_of_pending hp, ← hacc]
    exact h.append_gapEntry hno hle
  | false =>
    have hopen : d.openAt = d.accounted := by simp [Demodulator.openAt, Demodulator.accounted, hp]
    rw [pendingEntry_of_not_pending hp, List.append_nil, hopen]
    exact h

/-- A closed run is accounted for up to its end (R203, R213, R221). -/
theorem DemInv.tilesTo_closed_run (h : DemInv len d) (hm : d.mode = .carrier) :
    TilesTo d.runEnd (d.out ++ pendingEntry d d.runStart ++ runEntries d)
      ∧ lastIsNoGap (d.out ++ pendingEntry d d.runStart ++ runEntries d) := by
  have hrun : d.mode ≠ .done := by simp [hm]
  obtain ⟨he, hr⟩ := (modeAgrees_carrier hm).mp h.mode
  have hflush := (h.tilesTo hrun).append_pendingEntry (h.accounts hrun).2 he
  rw [← hr.start] at hflush
  have hpos := he.positions
  exact hflush.append_carrierEntries (by rw [hr.start, hr.stop]; omega) (carrierCounts_ne_nil _)

/-- A byte joins an output that ends no later than the cursor, and at `dem.data_start` if no Data chunk is last (R209). -/
theorem tilesTo_appendByte {n : Nat} (h : TilesTo n (d.out ++ pendingEntry d d.dataStart)) (hn : n ≤ d.pos)
    (hstart : n = d.dataStart ∨ lastIsData (d.out ++ pendingEntry d d.dataStart)) (v : Byte) :
    TilesTo d.pos (d.appendByte v).out ∧ lastIsData (d.appendByte v).out := by
  obtain ⟨e, hlast, -, hout⟩ | ⟨hnone, hout⟩ := d.appendByte_out v
  · rw [hout]
    exact ⟨h.replace_last hlast (dataEntry_legal _ v e.start d.pos) rfl hn (dataEntry_not_gap _ _ _),
      _, List.getLast?_concat, rfl⟩
  · obtain rfl : n = d.dataStart := hstart.resolve_right fun ⟨e, hlast, hid⟩ => hnone e hlast hid
    rw [hout]
    exact ⟨h.append_singleton (dataEntry_legal [] v d.dataStart d.pos) rfl hn (absurd · (dataEntry_not_gap _ _ _)),
      _, List.getLast?_concat, rfl⟩

/-- Where the output ends when a byte is complete, by how its start bit was reached (R213, R214, R219). -/
theorem DemInv.tilesTo_before_byte (h : DemInv len d) (hm : d.mode = .byte) :
    ∃ n, TilesTo n (d.out ++ pendingEntry d d.dataStart) ∧ n ≤ d.pos
      ∧ (n = d.dataStart ∨ lastIsData (d.out ++ pendingEntry d d.dataStart)) := by
  have hrun : d.mode ≠ .done := by simp [hm]
  obtain ⟨he, horigin, -⟩ := (modeAgrees_byte hm).mp h.mode
  have htiles := h.tilesTo hrun
  have hpos := he.positions
  cases ho : d.origin with
  | none => simp [Demodulator.originAgrees, ho] at horigin
  | carrier =>
    obtain ⟨hp, hstart⟩ := (originAgrees_carrier ho).mp horigin
    rw [pendingEntry_of_not_pending hp, List.append_nil]
    exact ⟨_, htiles, by omega, .inl (by rw [accounted_of_not_pending hp, hstart])⟩
  | short =>
    have hstart := (originAgrees_short ho).mp horigin
    rw [hstart]
    exact ⟨_, htiles.append_pendingEntry (h.accounts hrun).2 he, hpos.2.2.1, .inl rfl⟩
  | stopBit =>
    obtain ⟨hp, hdata⟩ := (originAgrees_stopBit ho).mp horigin
    rw [pendingEntry_of_not_pending hp, List.append_nil]
    exact ⟨_, htiles, by omega, .inr hdata⟩

/-- The accumulator has one more bit (R217). -/
theorem takeBit_acc_lt (h : d.acc.toNat < 2 ^ d.bitIdx) (b : Bool) (p : Nat) :
    (d.takeBit b p).acc.toNat < 2 ^ (d.takeBit b p).bitIdx := by
  have hbit : (if b then 1#8 <<< d.bitIdx else 0#8).toNat ≤ 2 ^ d.bitIdx := by
    cases b
    · simp
    · simpa [Nat.shiftLeft_eq] using Nat.mod_le _ _
  rw [Demodulator.takeBit_acc, Demodulator.takeBit_bitIdx, BitVec.toNat_add, pow_succ]
  exact (Nat.mod_le _ _).trans_lt (by omega)

/-! ### Every move keeps the invariant -/

theorem DemInv.accept (h : DemInv len d) (hm : d.mode = .sync) (hp : d.pos < len) : DemInv len d.accept := by
  have hrun : d.mode ≠ .done := by simp [hm]
  obtain ⟨hpending, hgap, -⟩ := (modeAgrees_sync hm).mp h.mode
  have hopen : d.accept.openAt = d.pos := if_pos hpending
  refine demInv_of_running h.codec (h.running hrun) (by simp) (h.tilesTo hrun) (h.accounts hrun).2
    ((modeAgrees_carrier (by simp)).mpr ⟨⟨hp, hp.le, fun _ => ⟨hgap, le_rfl⟩, fun hf => ?_⟩, hopen.symm, rfl, ?_⟩)
  · exact absurd (hpending.symm.trans hf) (by decide)
  · exact fun hc => absurd hc (lt_irrefl 0)

theorem DemInv.scan (h : DemInv len d) (hm : d.mode = .sync) (hp : d.pos < len) :
    DemInv len { d with pos := d.pos + 1 } := by
  have hrun : d.mode ≠ .done := by simp [hm]
  obtain ⟨hpending, hgap, -⟩ := (modeAgrees_sync hm).mp h.mode
  exact demInv_of_running h.codec (h.running hrun) hrun (h.tilesTo hrun) (h.accounts hrun).2
    ((modeAgrees_sync (by exact hm)).mpr ⟨hpending, Nat.le_succ_of_le hgap, hp⟩)

theorem DemInv.countCycle (h : DemInv len d) (hm : d.mode = .carrier) {p : Nat} (hp : d.pos < p) (hl : p ≤ len) :
    DemInv len (d.countCycle p) := by
  have hrun : d.mode ≠ .done := by simp [hm]
  obtain ⟨he, hr⟩ := (modeAgrees_carrier hm).mp h.mode
  have hpos := he.positions
  have hstart := hr.start
  exact demInv_of_running h.codec (h.running hrun) hrun (h.tilesTo hrun) (h.accounts hrun).2
    ((modeAgrees_carrier (by exact hm)).mpr ⟨he.advance rfl rfl rfl rfl hp.le hl, hstart, rfl,
      fun _ => show d.runStart < p by omega⟩)

theorem DemInv.endRun (h : DemInv len d) (hm : d.mode = .carrier) : DemInv len d.endRun := by
  have hrun : d.mode ≠ .done := by simp [hm]
  obtain ⟨he, hr⟩ := (modeAgrees_carrier hm).mp h.mode
  obtain ⟨htiles, hno⟩ := h.tilesTo_closed_run hm
  have hpos := he.positions
  rw [Demodulator.endRun_eq]
  split_ifs with hc
  · have hlt : d.anchor < d.pos := by
      have hcounted := hr.counted (by omega)
      rw [hr.start, hr.stop] at hcounted
      omega
    exact demInv_of_running h.codec (h.running hrun) (by simp) htiles hno ((modeAgrees_startBit rfl).mpr
      ⟨.of_boundary_eq_pos he.anchored hlt he.inside rfl hr.stop, (originAgrees_carrier rfl).mpr ⟨rfl, rfl⟩, by simp⟩)
  · exact demInv_of_running h.codec (h.running hrun) (by simp) (h.tilesTo hrun) (h.accounts hrun).2
      ((modeAgrees_startBit rfl).mpr
        ⟨he.advance rfl rfl rfl rfl le_rfl he.inside, (originAgrees_short rfl).mpr hr.start, by simp⟩)

theorem DemInv.startByte (h : DemInv len d) (hm : d.mode = .startBit) {p : Nat} (hp : d.pos < p) (hl : p ≤ len) :
    DemInv len (d.startByte p) := by
  have hrun : d.mode ≠ .done := by simp [hm]
  obtain ⟨he, horigin, -⟩ := (modeAgrees_startBit hm).mp h.mode
  have hpos := he.positions
  exact demInv_of_running h.codec (h.running hrun) (by simp) (h.tilesTo hrun) (h.accounts hrun).2
    ((modeAgrees_byte rfl).mpr ⟨he.advance rfl rfl rfl rfl hp.le hl, horigin, show d.anchor < p by omega, by simp,
      by simp⟩)

theorem DemInv.startRun (h : DemInv len d) (hm : d.mode = .startBit) (ho : d.origin = .stopBit) {p : Nat}
    (hp : d.pos < p) (hl : p ≤ len) : DemInv len (d.startRun p) := by
  have hrun : d.mode ≠ .done := by simp [hm]
  obtain ⟨he, horigin, hboundary⟩ := (modeAgrees_startBit hm).mp h.mode
  obtain ⟨hpending, -⟩ := (originAgrees_stopBit ho).mp horigin
  have hopen : (d.startRun p).openAt = d.boundary := by simp [Demodulator.openAt, hpending]
  exact demInv_of_running h.codec (h.running hrun) (by simp) (h.tilesTo hrun) (h.accounts hrun).2
    ((modeAgrees_carrier rfl).mpr ⟨he.advance rfl rfl rfl rfl hp.le hl, (hboundary ho).trans hopen.symm, rfl,
      fun _ => hp⟩)

theorem DemInv.takeBit (h : DemInv len d) (hm : d.mode = .byte) (b : Bool) {p : Nat} (hp : d.pos < p) (hl : p ≤ len)
    (hb : d.bitIdx ≠ 7) : DemInv len (d.takeBit b p) := by
  have hrun : d.mode ≠ .done := by simp [hm]
  obtain ⟨he, horigin, hanchor, hidx, hacc⟩ := (modeAgrees_byte hm).mp h.mode
  exact demInv_of_running h.codec (h.running hrun) hrun (h.tilesTo hrun) (h.accounts hrun).2
    ((modeAgrees_byte (by exact hm)).mpr ⟨he.advance rfl rfl rfl rfl hp.le hl, horigin, hanchor.trans hp,
      show d.bitIdx + 1 < 8 by omega, takeBit_acc_lt hacc b p⟩)

theorem DemInv.completeByte (h : DemInv len d) (hm : d.mode = .byte) (b : Bool) {p : Nat} (hp : d.pos < p)
    (hl : p ≤ len) : DemInv len (d.takeBit b p).completeByte := by
  have hrun : d.mode ≠ .done := by simp [hm]
  obtain ⟨he, -, hanchor, -⟩ := (modeAgrees_byte hm).mp h.mode
  obtain ⟨n, hbefore, hn, hstart⟩ := h.tilesTo_before_byte hm
  obtain ⟨htiles, hdata⟩ := tilesTo_appendByte (d := d.takeBit b p) hbefore (hn.trans hp.le) hstart (d.takeBit b p).acc
  rw [Demodulator.completeByte, Demodulator.appendByte_eq]
  exact demInv_of_running h.codec (h.running hrun) (by simp) htiles (lastIsNoGap_of_lastIsData hdata)
    ((modeAgrees_stopBit rfl).mpr
      ⟨.of_boundary_eq_pos he.anchored (hanchor.trans hp) hl rfl rfl, rfl, rfl, hdata⟩)

theorem DemInv.takeStop (h : DemInv len d) (hm : d.mode = .stopBit) {p : Nat} (hp : d.pos < p) (hl : p ≤ len) :
    DemInv len (d.takeStop p) := by
  have hrun : d.mode ≠ .done := by simp [hm]
  obtain ⟨he, hpending, hboundary, e, hlast, hid⟩ := (modeAgrees_stopBit hm).mp h.mode
  have htiles := h.tilesTo hrun
  have hpos := he.positions
  rw [accounted_of_not_pending hpending, hboundary] at htiles
  have hnone : ¬({ e with stop := p } : Emitted).isGap := fun hgap => absurd (hid.symm.trans hgap) (by decide)
  have hextended := htiles.replace_last hlast (e' := { e with stop := p })
    (h.output.legal e (List.mem_of_getLast? hlast)) rfl hp.le hnone
  have hdata : lastIsData (d.out.dropLast ++ [{ e with stop := p }]) := ⟨_, List.getLast?_concat, hid⟩
  rw [Demodulator.takeStop, Demodulator.extendLast_eq hlast]
  refine demInv_of_running h.codec (h.running hrun) (by simp) ?_ (lastIsNoGap_of_lastIsData hdata)
    ((modeAgrees_startBit rfl).mpr ⟨.of_boundary_eq_pos he.anchored (show d.anchor < p by omega) hl hpending rfl,
      (originAgrees_stopBit rfl).mpr ⟨hpending, hdata⟩, fun _ => rfl⟩)
  rw [accounted_of_not_pending (by exact hpending)]
  exact hextended

theorem DemInv.failure (h : DemInv len d) (hrun : d.mode ≠ .done) (he : EpisodeInv len d) : DemInv len d.failure := by
  have hin := he.inside
  have hanchored := he.anchored
  have hacc : d.failure.accounted = d.accounted := by
    rw [Demodulator.failure_eq]
    rfl
  have hout : d.failure.out = d.out := by rw [Demodulator.failure_eq]
  refine demInv_of_running ?_ ?_ ?_ (by rw [hacc, hout]; exact h.tilesTo hrun) (by rw [hout]; exact (h.accounts hrun).2) ?_
  · rw [Demodulator.failure_eq]
    exact h.codec
  · rw [Demodulator.failure_eq]
    exact h.running hrun
  · simp [Demodulator.failure_eq]
  · rw [modeAgrees_sync (by simp [Demodulator.failure_eq])]
    cases hp : d.gapPending with
    | true =>
      rw [(failureResumes d).1 hp]
      have := (he.pending hp).1
      exact ⟨hp, show d.gapStart ≤ d.anchor + 1 by omega, hanchored⟩
    | false =>
      rw [(failureResumes d).2 hp]
      exact ⟨rfl, le_rfl, (he.confirmed hp).2.trans hin⟩

theorem DemInv.endOfStream (h : DemInv len d) (hrun : d.mode ≠ .done) : DemInv len (d.endOfStream len) := by
  have htail : TilesTo len (d.endOfStream len).out := by
    by_cases hc : d.mode = .carrier ∧ 19 ≤ d.c
    · obtain ⟨htiles, hno⟩ := h.tilesTo_closed_run hc.1
      obtain ⟨he, hr⟩ := (modeAgrees_carrier hc.1).mp h.mode
      rw [(endOfStreamCloses d len).1 hc.1 hc.2]
      exact htiles.append_gapEntry hno (hr.stop ▸ he.inside)
    · rw [(endOfStreamCloses d len).2 (by rwa [not_and_or, not_le] at hc)]
      exact (h.tilesTo hrun).append_gapEntry (h.accounts hrun).2 (h.accounted_le hrun)
  refine ⟨?_, htail.inv, iff_of_true rfl rfl, fun _ => htail.stop, absurd rfl, trivial⟩
  rw [Demodulator.endOfStream_eq]
  exact ⟨d.closeRun_codec.1.trans h.codec.1, d.closeRun_codec.2.trans h.codec.2⟩

theorem DemInv.episode (h : DemInv len d) (hm : d.mode = .startBit ∨ d.mode = .byte ∨ d.mode = .stopBit) :
    EpisodeInv len d := by
  obtain hm | hm | hm := hm
  · exact ((modeAgrees_startBit hm).mp h.mode).1
  · exact ((modeAgrees_byte hm).mp h.mode).1
  · exact ((modeAgrees_stopBit hm).mp h.mode).1

end

theorem DemMove.inv {ib : List Sample} {d d' : Demodulator} (hmove : DemMove ib d d') (hrun : d.mode ≠ .done)
    (h : DemInv ib.length d) : DemInv ib.length d' := by
  cases hmove with
  | ends => exact h.endOfStream hrun
  | accepts hm hp => exact h.accept hm hp
  | scans hm hp => exact h.scan hm hp
  | counts hm p hp hl => exact h.countCycle hm hp hl
  | endsRun hm => exact h.endRun hm
  | starts hm p hp hl => exact h.startByte hm hp hl
  | restarts hm ho p hp hl => exact h.startRun hm ho hp hl
  | takes hm b p hp hl hb => exact h.takeBit hm b hp hl hb
  | completes hm b p hp hl _ => exact h.completeByte hm b hp hl
  | stops hm p hp hl => exact h.takeStop hm hp hl
  | fails hm => exact h.failure hrun (h.episode hm)

/-- Every DEM step keeps DEM's invariant. -/
theorem demStep_inv {ib : List Sample} {d : Demodulator} (h : DemInv ib.length d) : DemInv ib.length (demStep ib d) := by
  by_cases hdone : d.mode = .done
  · rwa [demStep_done ib d hdone]
  · exact (demStep_move ib d hdone).inv hdone h

theorem demReset_inv (len : Nat) : DemInv len Demodulator.reset :=
  demInv_of_running ⟨rfl, rfl⟩ (by decide) (by decide) ⟨⟨by simp [Demodulator.reset], trivial, trivial⟩, rfl⟩
    (by simp [lastIsNoGap, Demodulator.reset]) ((modeAgrees_sync rfl).mpr ⟨rfl, le_rfl, Nat.zero_le _⟩)

end Sys2Proof.Machine
end

section
/-! `demodulate` ends with spans that tile its input (R224, R225): every DEM step decreases a rank, so a run of `demFuel` steps is
`Done`, and `DemInv` then says where the spans stand. -/

namespace Sys2Proof.Machine

/-! ### Every run ends -/

/-- Where the current episode began: the candidate under trial, or the one that `Sync` tries next. -/
def Demodulator.episodeAt (d : Demodulator) : Nat := if d.mode = .sync then d.pos else d.anchor

/-- How many steps that leave the cursor in place can still come: `Sync` accepts, and then a run ends. -/
def modeRank : DemMode → Nat
  | .sync => 2
  | .carrier => 1
  | .startBit => 0
  | .byte => 0
  | .stopBit => 0
  | .done => 0

/-- A number of steps that suffices: the episodes to come weigh more than what is left of the current one. -/
def Demodulator.rank (len : Nat) (d : Demodulator) : Nat :=
  if d.mode = .done then 0
  else (len - d.episodeAt) * (2 * len + 4) + (2 * (len - d.pos) + modeRank d.mode) + 1

section
variable {len : Nat} {d d' : Demodulator}

theorem modeRank_le (m : DemMode) : modeRank m ≤ 2 := by cases m <;> decide

theorem rank_of_done (h : d.mode = .done) : d.rank len = 0 := if_pos h

theorem rank_of_running (h : d.mode ≠ .done) :
    d.rank len = (len - d.episodeAt) * (2 * len + 4) + (2 * (len - d.pos) + modeRank d.mode) + 1 := if_neg h

theorem rank_lt_of_done (hrun : d.mode ≠ .done) (hdone : d'.mode = .done) : d'.rank len < d.rank len := by
  rw [rank_of_done hdone, rank_of_running hrun]
  omega

/-- A step within an episode. -/
theorem rank_lt_of_same_episode (hrun : d.mode ≠ .done) (hepisode : d'.episodeAt = d.episodeAt)
    (hlt : 2 * (len - d'.pos) + modeRank d'.mode < 2 * (len - d.pos) + modeRank d.mode) : d'.rank len < d.rank len := by
  by_cases hdone : d'.mode = .done
  · exact rank_lt_of_done hrun hdone
  · rw [rank_of_running hdone, rank_of_running hrun, hepisode]
    omega

/-- A step to a later episode. -/
theorem rank_lt_of_later_episode (hrun : d.mode ≠ .done) (hlater : d.episodeAt < d'.episodeAt)
    (hle : d'.episodeAt ≤ len) : d'.rank len < d.rank len := by
  by_cases hdone : d'.mode = .done
  · exact rank_lt_of_done hrun hdone
  · have hrank := modeRank_le d'.mode
    have hone : len - d'.episodeAt + 1 ≤ len - d.episodeAt := by omega
    have hmul := Nat.mul_le_mul_right (2 * len + 4) hone
    rw [Nat.add_mul] at hmul
    rw [rank_of_running hdone, rank_of_running hrun]
    omega

theorem episodeAt_of_ne_sync (h : d.mode ≠ .sync) : d.episodeAt = d.anchor := if_neg h

/-- A step that stays outside `Sync`, with its anchor, and moves the cursor forward. -/
theorem rank_lt_of_pos_lt (hrun : d.mode ≠ .done) (hm : d.mode ≠ .sync) (hm' : d'.mode ≠ .sync)
    (hanchor : d'.anchor = d.anchor) (hpos : d.pos < d'.pos) (hlen : d'.pos ≤ len)
    (hrank : modeRank d'.mode ≤ modeRank d.mode + 1) : d'.rank len < d.rank len :=
  rank_lt_of_same_episode hrun (by rw [episodeAt_of_ne_sync hm, episodeAt_of_ne_sync hm', hanchor]) (by omega)

/-- A failure resumes past the candidate of its episode, inside the buffer (R220). -/
theorem EpisodeInv.failure_pos (he : EpisodeInv len d) : d.anchor < d.failure.pos ∧ d.failure.pos ≤ len := by
  have hin := he.inside
  have hanchored := he.anchored
  cases hp : d.gapPending with
  | true =>
    rw [(failureResumes d).1 hp]
    exact ⟨Nat.lt_succ_self _, hanchored⟩
  | false =>
    rw [(failureResumes d).2 hp]
    have hconfirmed := he.confirmed hp
    exact ⟨hconfirmed.1, hconfirmed.2.trans hin⟩

end

/-- Every move decreases the rank (R225). -/
theorem DemMove.rank_lt {ib : List Sample} {d d' : Demodulator} (hmove : DemMove ib d d') (hrun : d.mode ≠ .done)
    (h : DemInv ib.length d) : d'.rank ib.length < d.rank ib.length := by
  cases hmove with
  | ends => exact rank_lt_of_done hrun rfl
  | accepts hm hp =>
    refine rank_lt_of_same_episode hrun ?_ ?_
    · simp [Demodulator.episodeAt, hm]
    · simp [hm, modeRank]
  | scans hm hp =>
    have hat : d.episodeAt = d.pos := if_pos hm
    have hat' : Demodulator.episodeAt { d with pos := d.pos + 1 } = d.pos + 1 := if_pos hm
    exact rank_lt_of_later_episode hrun (by omega) (by omega)
  | counts hm p hp hl => exact rank_lt_of_pos_lt hrun (by simp [hm]) (by simp [hm]) rfl hp hl (Nat.le_succ _)
  | endsRun hm =>
    rw [Demodulator.endRun_eq]
    split_ifs <;> exact rank_lt_of_same_episode hrun (by simp [Demodulator.episodeAt, hm]) (by simp [hm, modeRank])
  | starts hm p hp hl => exact rank_lt_of_pos_lt hrun (by simp [hm]) (by simp) rfl hp hl (by simp [modeRank])
  | restarts hm ho p hp hl => exact rank_lt_of_pos_lt hrun (by simp [hm]) (by simp) rfl hp hl (by simp [modeRank])
  | takes hm b p hp hl hb => exact rank_lt_of_pos_lt hrun (by simp [hm]) (by simp [hm]) rfl hp hl (Nat.le_succ _)
  | completes hm b p hp hl hb =>
    rw [Demodulator.completeByte, Demodulator.appendByte_eq]
    exact rank_lt_of_pos_lt hrun (by simp [hm]) (by simp) rfl hp hl (by simp [modeRank])
  | stops hm p hp hl =>
    exact rank_lt_of_pos_lt hrun (by simp [hm]) (by simp [Demodulator.takeStop]) (by simp [Demodulator.takeStop]) hp hl
      (by simp [Demodulator.takeStop, modeRank])
  | fails hm =>
    have hpos := (h.episode hm).failure_pos
    have hne : d.mode ≠ .sync := by obtain hm | hm | hm := hm <;> simp [hm]
    have hat : d.failure.episodeAt = d.failure.pos := if_pos (by simp [Demodulator.failure_eq])
    rw [← episodeAt_of_ne_sync hne, ← hat] at hpos
    exact rank_lt_of_later_episode hrun hpos.1 hpos.2

/-- A run with enough fuel ends, in a state that meets the invariant. -/
theorem runDem_done {ib : List Sample} {fuel : Nat} {d : Demodulator} (h : DemInv ib.length d)
    (hfuel : d.rank ib.length ≤ fuel) : (runDem ib fuel d).mode = .done ∧ DemInv ib.length (runDem ib fuel d) := by
  induction fuel generalizing d with
  | zero =>
    by_cases hdone : d.mode = .done
    · exact ⟨hdone, h⟩
    · rw [rank_of_running hdone] at hfuel
      omega
  | succ fuel ih =>
    rw [runDem]
    split_ifs with hruns
    · have hrun := (runs_eq_true_iff d).mp hruns
      have hlt := (demStep_move ib d hrun).rank_lt hrun h
      exact ih (demStep_inv h) (by omega)
    · exact ⟨not_not.mp (mt (runs_eq_true_iff d).mpr hruns), h⟩

theorem rank_reset_le_demFuel (len : Nat) : Demodulator.reset.rank len ≤ demFuel len := by
  have hrank : Demodulator.reset.rank len = len * (2 * len + 4) + (2 * len + 2) + 1 :=
    rank_of_running (d := Demodulator.reset) (by decide)
  rw [hrank, demFuel]
  nlinarith

/-- `demodulate` ends with DEM `Done` and its invariant (R225, R227). -/
theorem demFinal_done (ib : List Sample) : (demFinal ib).mode = .done ∧ DemInv ib.length (demFinal ib) :=
  runDem_done (demReset_inv _) (rank_reset_le_demFuel _)

/-! ### Spans that tile cover each sample once -/

theorem tilesFrom_start_le {start : Nat} {out : List Emitted} (h : tilesFrom start out) {e : Emitted} (he : e ∈ out) :
    start ≤ e.start := by
  induction out generalizing start with
  | nil => cases he
  | cons x rest ih =>
    obtain ⟨hstart, hle, hrest⟩ := h
    obtain rfl | he := List.mem_cons.mp he
    · exact hstart.ge
    · exact (hstart.ge.trans hle).trans (ih hrest he)

theorem existsUnique_entry_of_tilesFrom {start i : Nat} {out : List Emitted} (h : tilesFrom start out)
    (hstart : start ≤ i) (hstop : i < stopFrom start out) :
    ∃! k : Nat, ∃ e, out[k]? = some e ∧ e.start ≤ i ∧ i < e.stop := by
  induction out generalizing start with
  | nil => exact absurd hstop hstart.not_gt
  | cons x rest ih =>
    obtain ⟨hx, -, hrest⟩ := h
    by_cases hi : i < x.stop
    · refine ⟨0, ⟨x, rfl, hx ▸ hstart, hi⟩, ?_⟩
      rintro (_ | k) ⟨e, hk, hle, -⟩
      · rfl
      · have := tilesFrom_start_le hrest (List.mem_of_getElem? hk)
        omega
    · obtain ⟨k, hk, hunique⟩ := ih hrest (not_lt.mp hi) hstop
      refine ⟨k + 1, hk, ?_⟩
      rintro (_ | j) ⟨e, hj, hcover⟩
      · obtain rfl := Option.some.inj hj
        exact absurd hcover.2 hi
      · rw [hunique j ⟨e, hj, hcover⟩]

/-- Settles O58: the invariant holds when the run ends, and `Done` says where the spans end. -/
theorem spansTileTheInput : Obligations.SpansTileTheInput := by
  intro ib
  obtain ⟨hdone, hinv⟩ := demFinal_done ib
  have hstop := hinv.ended hdone
  refine ⟨rfl, by simp [demodulate], hinv.output.tiles, hstop, hinv.output.gaps, fun i hi => ?_⟩
  have hcover := existsUnique_entry_of_tilesFrom hinv.output.tiles i.zero_le (by rwa [← lastStop_eq_stopFrom, hstop])
  simpa [demodulate, Statement.covers] using hcover

end Sys2Proof.Machine
end

section
/-! The state after reset (R290 to R292). -/

namespace Sys2Proof.Machine

/-- Settles O14: the table is the reset of MOD (R290) beside the reset of DEM (R291), which `State.reset` places unchanged. -/
theorem resetTable : Obligations.ResetTable := by
  unfold Obligations.ResetTable
  constructor
  · exact (rfl : State.reset.mod = Modulator.reset)
  · exact (rfl : State.reset.dem = Demodulator.reset)

end Sys2Proof.Machine
end

section
/-! Decoding and encoding are inverse (R81, R83, R97, R99): the fields of a record that is read, the well-formedness of what the
decoder selects, and the refusal of a wrong magic (R82, R262). -/

namespace Sys2Proof.Machine

/-! ### An instruction and its chunk -/

/-- A well-formed instruction is what its own chunk decodes to, constructor by constructor (R83, R97). -/
theorem decodeChunk_of_wellFormed {i : Instr} (h : i.wellFormed = true) : decodeChunk i.toChunk = i := by
  cases i with
  | data p => exact Laws.ChunkRoundTrip.data p h
  | dfmt p => exact Laws.ChunkRoundTrip.dfmt p h
  | carrier p => exact Laws.ChunkRoundTrip.carrier p h
  | dummy p => exact Laws.ChunkRoundTrip.dummy p h
  | gap p => exact Laws.ChunkRoundTrip.gap p h
  | basefreq p => exact Laws.ChunkRoundTrip.basefreq p h
  | security p => exact Laws.ChunkRoundTrip.security p h
  | phase p => exact Laws.ChunkRoundTrip.phase p h
  | fgap p => exact Laws.ChunkRoundTrip.fgap p h
  | chunk id p => exact Laws.ChunkRoundTrip.chunk id p h

theorem payloadFits_of_wellFormed {i : Instr} (h : i.wellFormed = true) : payloadFits i.toChunk.payload = true := by
  cases i with
  | chunk id p => exact (Bool.and_eq_true_iff.mp h).1
  | _ p => exact h

/-- The nine tests of the decoder leave no recognised identifier to its last outcome. -/
theorem not_recognised_of_decodeChunk {c : Chunk} {id : U16} {p : List Byte} (h : decodeChunk c = .chunk id p) :
    id ∉ recognisedIds := by
  unfold decodeChunk at h
  split_ifs at h with h1 h2 h3 h4 h5 h6 h7 h8 h9
  obtain ⟨rfl, -⟩ := Instr.chunk.inj h
  simp only [recognisedIds, List.mem_cons, List.not_mem_nil, or_false, not_or]
  exact ⟨h1, h2, h3, h4, h5, h6, h7, h8, h9⟩

/-- What the decoder selects is well-formed just when the payload fits. -/
theorem wellFormed_decodeChunk (c : Chunk) : (decodeChunk c).wellFormed = payloadFits c.payload := by
  have hpayload : (decodeChunk c).payload = c.payload := congrArg Chunk.payload (decodeChunk_toChunk c)
  rw [← hpayload]
  cases h : decodeChunk c with
  | chunk id p => simp [Instr.wellFormed, Instr.payload, not_recognised_of_decodeChunk h]
  | _ p => rfl

/-- Settles O1: the record reads back as its chunk, and the chunk decodes to its instruction. -/
theorem decodeOfEncodeIsIdentity : Obligations.DecodeOfEncodeIsIdentity := by
  intro i rest h
  rw [decode, encode, readRecord_encodeChunk_append (payloadFits_of_wellFormed h)]
  simp only [decodeChunk_of_wellFormed h]

/-! ### What a record that is read says of the bytes -/

theorem leBytes_of_length {bs : List Byte} {n : Nat} (h : bs.length = n) : leBytes n (leNat bs) = bs :=
  h ▸ leBytes_leNat bs

theorem leNat_lt_of_length {bs : List Byte} {n : Nat} (h : bs.length = n) : leNat bs < 256 ^ n :=
  h ▸ leNat_lt bs

/-- The bytes of a record that is read are that record, whose payload fits its length field (R81, R99). -/
theorem readRecord_eq_record {bytes rest : List Byte} {c : Chunk} (h : readRecord bytes = .record c rest) :
    bytes = encodeChunk c ++ rest ∧ payloadFits c.payload = true := by
  unfold readRecord at h
  split_ifs at h with hempty hid hlen hpayload
  obtain ⟨rfl, rfl⟩ := RecordRead.record.inj h
  have hidLength : (bytes.take 2).length = 2 := by rw [List.length_take]; omega
  have hlenLength : ((bytes.drop 2).take 4).length = 4 := by rw [List.length_take, List.length_drop]; omega
  have hidBound : leNat (bytes.take 2) < 2 ^ 16 := leNat_lt_of_length hidLength
  have hlenBound : leNat ((bytes.drop 2).take 4) < 2 ^ 32 := leNat_lt_of_length hlenLength
  have hpayloadLength : ((bytes.drop 6).take (leNat ((bytes.drop 2).take 4))).length = leNat ((bytes.drop 2).take 4) :=
    List.length_take_of_le (by omega)
  refine ⟨?_, (payloadFits_iff _).mpr (hpayloadLength.trans_lt hlenBound)⟩
  rw [encodeChunk, hpayloadLength, BitVec.toNat_ofNat, Nat.mod_eq_of_lt hidBound, leBytes_of_length hidLength,
    leBytes_of_length hlenLength, List.append_assoc, List.append_assoc, List.take_append_drop,
    ← List.drop_drop (i := 4) (j := 2), List.take_append_drop, List.take_append_drop]

/-- Settles O2: the record that was read, decoded and encoded again, is the chunk it was. -/
theorem recordHasOneMeaning : Obligations.RecordHasOneMeaning := by
  intro bytes rest i h
  unfold decode at h
  cases hread : readRecord bytes with
  | endOfChunks => simp [hread] at h
  | rejected e => simp [hread] at h
  | record c rest' =>
    rw [hread] at h
    obtain ⟨rfl, rfl⟩ := Decoded.instr.inj h
    obtain ⟨hbytes, hfits⟩ := readRecord_eq_record hread
    rw [encode, decodeChunk_toChunk, wellFormed_decodeChunk]
    exact ⟨hbytes, hfits⟩

/-- Settles O3: each record is a closed evaluation of the decoder. -/
theorem specRecordsDecode : Obligations.SpecRecordsDecode := by
  refine ⟨?_, ?_, ?_, ?_, ?_⟩ <;> decide

/-- Settles O5: the magic is the first test of `readUef`, and its refusal is what `modulateUef` asks for first. -/
theorem wrongMagicIsRefused : Obligations.WrongMagicIsRefused := by
  intro bytes cfg hmagic
  have hread : readUef bytes = { chunks := [], error := some (.unsupportedFormat, 0) } := if_pos hmagic
  exact ⟨by rw [hread], by rw [modulateUef, hread, if_pos rfl]⟩

end Sys2Proof.Machine
end

section
/-! What a chunk can do, with what its instruction says of it (R22, R33, R174, R268), and the frame that follows (R21 to R27). -/

namespace Sys2Proof.Machine

open Host (Outcome)

/-! ### Every sample that is rendered is in range -/

/-- Every sample of a list is at most the amplitude of the configured depth. -/
def State.InScale (s : State) (xs : List Sample) : Prop := ∀ x ∈ xs, inRange s.cfg.depth x

section
variable {s : State} {xs ys : List Sample}

theorem State.InScale.append (hx : s.InScale xs) (hy : s.InScale ys) : s.InScale (xs ++ ys) :=
  fun x h => (List.mem_append.mp h).elim (hx x) (hy x)

theorem State.InScale.of_subset (hx : s.InScale xs) (h : ys ⊆ xs) : s.InScale ys := fun x hy => hx x (h hy)

theorem inScale_nil (s : State) : s.InScale [] := fun _ h => absurd h List.not_mem_nil

theorem inScale_flatMap {α : Type} {as : List α} {f : α → List Sample} (h : ∀ a ∈ as, s.InScale (f a)) :
    s.InScale (as.flatMap f) := by
  intro x hx
  obtain ⟨a, ha, hxa⟩ := List.mem_flatMap.mp hx
  exact h a ha x hxa

theorem inScale_cycle (s : State) (f : ℚ) : s.InScale (s.cycle f s.amp) := fun _ hx => mem_cycleSamples hx

theorem inScale_replicate_zero (s : State) (n : Nat) : s.InScale (List.replicate n 0) := by
  intro x hx
  obtain rfl := List.eq_of_mem_replicate hx
  exact Nat.zero_le _

theorem inScale_repeated (h : s.InScale xs) (n : Nat) : s.InScale (repeated n xs) := by
  intro x hx
  obtain ⟨ys, hys, hxys⟩ := List.mem_flatten.mp hx
  exact h x (List.eq_of_mem_replicate hys ▸ hxys)

theorem inScale_bitTone (hx : s.InScale xs) (hy : s.InScale ys) (b : Bool) : s.InScale (bitTone xs ys b) := by
  cases b with
  | false => exact hx
  | true => exact hy.append hy

theorem inScale_frames (s : State) (bytes : List Byte) (nbits : Nat) (parity : Byte) (stops : Int) :
    s.InScale (s.frames bytes nbits parity stops) := by
  refine inScale_flatMap fun v _ => .append (inScale_flatMap fun b _ => ?_) ?_
  · exact inScale_bitTone (inScale_cycle s _) (inScale_cycle s _) b
  · split_ifs
    · exact inScale_cycle s _
    · exact inScale_nil s

/-- A first or last pulse is part of a cycle (R129, R171). -/
theorem inScale_securityCycle (s : State) (o : SecurityOperands) (k : Nat) (bit : Bool) :
    s.InScale (s.securityCycle o k bit) := by
  unfold State.securityCycle
  split_ifs
  · exact (inScale_cycle s _).of_subset (List.drop_subset _ _)
  · exact (inScale_cycle s _).of_subset (List.take_subset _ _)
  · exact inScale_cycle s _

end

/-! ### What each instruction can do -/

/-- The instructions whose only effect is to emit samples. -/
def rendersSamples : Instr → Bool
  | .basefreq _ => false
  | .phase _ => false
  | .chunk _ _ => false
  | _ => true

/-- What an instruction can answer: it raises, or it emits samples in range, or it writes the one register it names. -/
inductive ExecEffect (s : State) : Instr → Outcome State Fault Refusal → Prop where
  | raises (i : Instr) (e : Exception) (fatal : fatalForMod e) : ExecEffect s i (.next (s.takeException e))
  | emits (i : Instr) (renders : rendersSamples i = true) (xs : List Sample) (scale : s.InScale xs) :
      ExecEffect s i (.next (s.emit xs).advance)
  | setsFrequency (p : List Byte) (f : ℚ) (legal : legalFrequency f) :
      ExecEffect s (.basefreq p) (.next (s.setBaseFrequency f).advance)
  | setsPhase (p : List Byte) (d : U16) : ExecEffect s (.phase p) (.next (s.setPhase d).advance)
  | ignores (id : U16) (p : List Byte) : ExecEffect s (.chunk id p) (.next (s.recordIgnored id).advance)

theorem ExecEffect.malformed (s : State) (i : Instr) : ExecEffect s i (raise .malformedChunk s) := .raises i _ (.inl rfl)

theorem ExecEffect.invalid (s : State) (i : Instr) : ExecEffect s i (raise .invalidValue s) := .raises i _ (.inr rfl)

/-- The operand of 0x113 and 0x116 is the value of the four bytes read. -/
theorem exists_f32Value_of_readF32 {p : List Byte} {off : Nat} {v : F32Value} (h : readF32 p off = some v) :
    ∃ w, f32Value w = v := by
  obtain ⟨w, -, hw⟩ := Option.map_eq_some_iff.mp h
  exact ⟨_, hw⟩

theorem exec_execEffect (i : Instr) (s : State) : ExecEffect s i (exec i s) := by
  cases i with
  | data p => exact .emits _ rfl _ (inScale_frames s _ _ _ _)
  | dfmt p =>
    rw [exec_dfmt, execDfmt]
    split
    · exact .malformed s _
    · exact .emits _ rfl _ (inScale_frames s _ _ _ _)
  | carrier p =>
    rw [exec_carrier, execCarrier]
    split
    · exact .malformed s _
    · exact .emits _ rfl _ (inScale_repeated (inScale_cycle s _) _)
  | dummy p =>
    rw [exec_dummy, execDummy]
    split
    · exact .malformed s _
    · exact .emits _ rfl _ (((inScale_repeated (inScale_cycle s _) _).append (inScale_frames s _ _ _ _)).append
        (inScale_repeated (inScale_cycle s _) _))
  | gap p =>
    rw [exec_gap, execGap]
    split
    · exact .malformed s _
    · exact .emits _ rfl _ (repeated_silentCycle _ s ▸ inScale_replicate_zero s _)
  | basefreq p =>
    rw [exec_basefreq, execBasefreq]
    split
    · exact .malformed s _
    · exact .invalid s _
    · exact .invalid s _
    · split_ifs with hpos
      · exact .setsFrequency p _ ⟨Rat.num_pos.mp hpos, exists_f32Value_of_readF32 ‹_›⟩
      · exact .invalid s _
  | security p =>
    rw [exec_security, execSecurity]
    split
    · exact .malformed s _
    · split_ifs
      · exact .emits _ rfl _ (inScale_flatMap fun k _ => inScale_securityCycle s _ k _)
      · exact .malformed s _
  | phase p =>
    rw [exec_phase, execPhase]
    split
    · exact .malformed s _
    · exact .setsPhase p _
  | fgap p =>
    rw [exec_fgap, execFgap]
    split
    · exact .malformed s _
    · exact .invalid s _
    · exact .invalid s _
    · exact .emits _ rfl _ (inScale_replicate_zero s _)
  | chunk id p => exact .ignores id p

/-- The same for the state an instruction answers. -/
theorem execEffect_of_next {i : Instr} {s t : State} (h : exec i s = .next t) : ExecEffect s i (.next t) :=
  h ▸ exec_execEffect i s

/-! ### What stays -/

/-- Everything but MOD's registers stays. -/
structure State.SameOutside (s t : State) : Prop where
  cfg : t.cfg = s.cfg
  cs : t.cs = s.cs
  ib : t.ib = s.ib
  active : t.active = s.active
  dem : t.dem = s.dem

theorem exec_sameOutside {i : Instr} {s t : State} (h : exec i s = .next t) : s.SameOutside t := by
  cases execEffect_of_next h with
  | raises | emits | setsFrequency | setsPhase | ignores => exact ⟨rfl, rfl, rfl, rfl, rfl⟩

theorem exec_out_prefix {i : Instr} {s t : State} (h : exec i s = .next t) : s.mod.out <+: t.mod.out := by
  cases execEffect_of_next h with
  | emits _ _ xs => exact List.prefix_append _ _
  | raises | setsFrequency | setsPhase | ignores => exact List.prefix_refl _

theorem exec_ignored_prefix {i : Instr} {s t : State} (h : exec i s = .next t) : s.mod.ignored <+: t.mod.ignored := by
  cases execEffect_of_next h with
  | ignores id => exact List.prefix_append _ _
  | raises | emits | setsFrequency | setsPhase => exact List.prefix_refl _

theorem exec_baseFrequency {i : Instr} {s t : State} (h : exec i s = .next t) (hi : ∀ p, i ≠ .basefreq p) :
    t.mod.baseFrequency = s.mod.baseFrequency := by
  cases execEffect_of_next h with
  | setsFrequency p => exact absurd rfl (hi p)
  | raises | emits | setsPhase | ignores => rfl

theorem exec_phase_register {i : Instr} {s t : State} (h : exec i s = .next t) (hi : ∀ p, i ≠ .phase p) :
    t.mod.phase = s.mod.phase := by
  cases execEffect_of_next h with
  | setsPhase p => exact absurd rfl (hi p)
  | raises | emits | setsFrequency | ignores => rfl

theorem exec_ignored {i : Instr} {s t : State} (h : exec i s = .next t) (hi : ∀ id p, i ≠ .chunk id p) :
    t.mod.ignored = s.mod.ignored := by
  cases execEffect_of_next h with
  | ignores id p => exact absurd rfl (hi id p)
  | raises | emits | setsFrequency | setsPhase => rfl

theorem exec_out_of_not_renders {i : Instr} {s t : State} (h : exec i s = .next t) (hi : rendersSamples i = false) :
    t.mod.out = s.mod.out := by
  cases execEffect_of_next h with
  | emits _ hrenders => simp [hi] at hrenders
  | raises | setsFrequency | setsPhase | ignores => rfl

/-- Settles O26: each clause is read off the effect of the instruction. -/
theorem chunkFrame : Obligations.ChunkFrame := by
  intro i s t h
  have hsame := exec_sameOutside h
  refine ⟨hsame.cfg, hsame.cs, hsame.ib, hsame.active, hsame.dem, fun k hk => ?_, exec_ignored_prefix h,
    exec_baseFrequency h, exec_phase_register h, exec_ignored h, fun hi => exec_out_of_not_renders h ?_⟩
  · obtain ⟨xs, hout⟩ := exec_out_prefix h
    rw [← hout, List.getElem?_append_left hk]
  · obtain ⟨p, rfl⟩ | ⟨p, rfl⟩ | ⟨id, p, rfl⟩ := hi <;> rfl

end Sys2Proof.Machine
end

section
/-! One step of the machine: which unit moves (R20, R25, R160, R222), that MOD's registers depend on its own state alone (R20,
R176), and that every step keeps the invariant. -/

namespace Sys2Proof.Machine

open Host (Outcome Core)

/-! ### A step of one unit -/

theorem stepMod_sameOutside {s t : State} (h : stepMod s = .next t) : s.SameOutside t := by
  obtain ⟨c, -, hexec⟩ | ⟨-, hend⟩ | ⟨-, hout⟩ := stepMod_cases s
  · exact exec_sameOutside (hexec.symm.trans h)
  · cases hend.symm.trans h
    exact ⟨rfl, rfl, rfl, rfl, rfl⟩
  · cases hout.symm.trans h

/-- A step that answers a state is a step of MOD, which was running, or of DEM, which was not done. -/
theorem step_next_cases {s t : State} (h : step s = .next t) :
    (s.mod.status = .running ∧ stepMod s = .next t) ∨ (s.dem.mode ≠ .done ∧ t = s.stepDem) := by
  obtain ⟨hrun, hstep⟩ | ⟨hrun, hstep⟩ | ⟨-, -, hstep⟩ := step_cases s
  · exact .inl ⟨(modRuns_eq_true_iff s).mp hrun, hstep.symm.trans h⟩
  · exact .inr ⟨(runs_eq_true_iff s.dem).mp hrun, (Outcome.next.inj (hstep.symm.trans h)).symm⟩
  · cases hstep.symm.trans h

/-- Settles O10: with its turn MOD fetches, and finds the end of CS. -/
theorem runEndsAtLastChunk : Obligations.RunEndsAtLastChunk := by
  intro s hrun hturn hcp
  have hfetch : s.fetch = .endOfChunks := by simp [State.fetch, hcp]
  rw [step, nextUnit_eq_mod hrun hturn]
  simp only [stepMod, hfetch]
  rfl

/-- Settles O11: the unit that steps is one that had not stopped. -/
theorem stoppedUnitsStayStopped : Obligations.StoppedUnitsStayStopped := by
  refine ⟨fun s t h => ?_, fun s hmod hdem => ?_⟩
  · obtain ⟨hrun, hstep⟩ | ⟨hrun, rfl⟩ := step_next_cases h
    · exact ⟨absurd hrun, fun _ => (stepMod_sameOutside hstep).dem⟩
    · exact ⟨fun _ => rfl, fun hdone => absurd hdone hrun⟩
  · obtain ⟨hrun, -⟩ | ⟨hrun, -⟩ | ⟨-, -, hstep⟩ := step_cases s
    · exact absurd ((modRuns_eq_true_iff s).mp hrun) hmod
    · exact absurd hdem ((runs_eq_true_iff s.dem).mp hrun)
    · exact hstep

/-- Settles O12: a MOD step keeps what is outside MOD, a DEM step what is outside DEM. -/
theorem stepMovesOneUnit : Obligations.StepMovesOneUnit := by
  intro s t h
  obtain ⟨-, hstep⟩ | ⟨-, rfl⟩ := step_next_cases h
  · have hsame := stepMod_sameOutside hstep
    exact ⟨hsame.cfg, hsame.cs, hsame.ib, hsame.active, .inr hsame.dem⟩
  · exact ⟨rfl, rfl, rfl, rfl, .inl rfl⟩

/-! ### MOD depends on its own state -/

/-- MOD's registers in the state that an outcome answers. -/
def modAfter : Outcome State Fault Refusal → Option Modulator
  | .next t => some t.mod
  | .fault _ => none
  | .refused _ => none

theorem modAfter_eq_some {o : Outcome State Fault Refusal} {m : Modulator} :
    modAfter o = some m ↔ ∃ t, o = .next t ∧ t.mod = m := by
  cases o <;> simp [modAfter]

/-- An instruction reads the configuration and MOD's registers, and nothing else of the state (R176). -/
theorem modAfter_exec {s u : State} (hcfg : u.cfg = s.cfg) (hmod : u.mod = s.mod) (i : Instr) :
    modAfter (exec i u) = modAfter (exec i s) := by
  obtain ⟨cfg, cs, ib, active, m, d⟩ := s
  obtain ⟨cfg', cs', ib', active', m', d'⟩ := u
  obtain rfl : cfg' = cfg := hcfg
  obtain rfl : m' = m := hmod
  cases i with
  | data p => rfl
  | chunk id p => rfl
  | dfmt p =>
    rw [exec_dfmt, exec_dfmt, execDfmt, execDfmt]
    cases dfmtOperands p <;> rfl
  | carrier p =>
    rw [exec_carrier, exec_carrier, execCarrier, execCarrier]
    cases cycleCount p <;> rfl
  | dummy p =>
    rw [exec_dummy, exec_dummy, execDummy, execDummy]
    cases dummyOperands p <;> rfl
  | gap p =>
    rw [exec_gap, exec_gap, execGap, execGap]
    cases cycleCount p <;> rfl
  | basefreq p =>
    rw [exec_basefreq, exec_basefreq, execBasefreq, execBasefreq]
    obtain _ | _ | _ | _ := frequencyOperand p
    case some.finite f =>
      simp only
      split_ifs <;> rfl
    all_goals rfl
  | security p =>
    rw [exec_security, exec_security, execSecurity, execSecurity]
    cases securityOperands cfg'.secCount p with
    | none => rfl
    | some o =>
      simp only
      split_ifs <;> rfl
  | phase p =>
    rw [exec_phase, exec_phase, execPhase, execPhase]
    cases phaseOperand p <;> rfl
  | fgap p =>
    rw [exec_fgap, exec_fgap, execFgap, execFgap]
    obtain _ | _ | _ | _ := secondsOperand p <;> rfl

/-- So an instruction that completes in one state completes in the other, with the same registers. -/
theorem exec_next_of_same {s u t : State} {i : Instr} (hcfg : u.cfg = s.cfg) (hmod : u.mod = s.mod)
    (h : exec i s = .next t) : ∃ v, exec i u = .next v ∧ v.mod = t.mod := by
  refine modAfter_eq_some.mp ?_
  rw [modAfter_exec hcfg hmod, h]
  rfl

/-- Settles O13: both states fetch the same chunk, or both are at the end. -/
theorem modDependsOnItsOwnStateOnly : Obligations.ModDependsOnItsOwnStateOnly := by
  intro s u t hcfg hcs hmod h
  obtain ⟨c, hfetch, hexec⟩ | ⟨hcp, hend⟩ | ⟨-, hout⟩ := stepMod_cases s
  · rw [stepMod_eq_exec (s := u) (c := c) (by rw [hcs, hmod, hfetch])]
    exact exec_next_of_same hcfg hmod (hexec.symm.trans h)
  · obtain rfl := Outcome.next.inj (hend.symm.trans h)
    have hfetch : u.fetch = .endOfChunks := by simp [State.fetch, hcs, hmod, hcp]
    refine ⟨u.finish, by simp only [stepMod, hfetch], ?_⟩
    rw [State.finish, State.finish, hmod]
  · cases hout.symm.trans h

/-! ### The invariant -/

/-- The chunk at the pointer, which is inside CS, keeps MOD's invariant. -/
theorem exec_modInv {s t : State} {c : Chunk} (h : ModInv s) (hrun : s.mod.status = .running)
    (hfetch : s.cs[s.mod.cp]? = some c) (hexec : exec (decodeChunk c) s = .next t) : ModInv t := by
  have hcp : s.mod.cp < s.cs.length := (List.getElem?_eq_some_iff.mp hfetch).1
  have hnext : ∀ m : Modulator, m.cp = s.mod.cp + 1 → m.status = s.mod.status → m.statusAgrees s.cs.length := by
    intro m hm hstatus
    rw [Modulator.statusAgrees, hstatus, hrun, hm]
    exact hcp
  generalize hi : decodeChunk c = i at hexec
  cases execEffect_of_next hexec with
  | raises _ e hfatal => exact ⟨h.frequency, ⟨rfl, hcp, hfatal⟩, h.memory, h.ignored⟩
  | emits _ _ xs hscale => exact ⟨h.frequency, hnext _ rfl rfl, emit_wf h.memory hscale, h.ignored⟩
  | setsFrequency p f hlegal => exact ⟨hlegal, hnext _ rfl rfl, h.memory, h.ignored⟩
  | setsPhase p d => exact ⟨h.frequency, hnext _ rfl rfl, h.memory, h.ignored⟩
  | ignores id p =>
    refine ⟨h.frequency, hnext _ rfl rfl, h.memory, fun x hx => ?_⟩
    obtain hx | hx := List.mem_append.mp hx
    · exact h.ignored x hx
    · exact List.mem_singleton.mp hx ▸ not_recognised_of_decodeChunk hi

theorem stepMod_modInv {s t : State} (h : ModInv s) (hrun : s.mod.status = .running) (hstep : stepMod s = .next t) :
    ModInv t := by
  obtain ⟨c, hfetch, hexec⟩ | ⟨hcp, hend⟩ | ⟨-, hout⟩ := stepMod_cases s
  · exact exec_modInv h hrun hfetch (hexec.symm.trans hstep)
  · obtain rfl := Outcome.next.inj (hend.symm.trans hstep)
    exact ⟨h.frequency, hcp, h.memory, h.ignored⟩
  · cases hout.symm.trans hstep

/-- Settles O53: the unit that steps keeps its own invariant, and the other's does not read what changed. -/
theorem everyStepKeepsTheInvariant : Obligations.EveryStepKeepsTheInvariant := by
  intro s t h hstep
  obtain ⟨hrun, hmod⟩ | ⟨-, rfl⟩ := step_next_cases hstep
  · have hsame := stepMod_sameOutside hmod
    refine ⟨stepMod_modInv h.mod hrun hmod, ?_⟩
    rw [hsame.ib, hsame.dem]
    exact h.dem
  · exact ⟨⟨h.mod.frequency, h.mod.status, h.mod.memory, h.mod.ignored⟩, demStep_inv h.dem⟩

/-- 1200 Hz is the value of a binary32. -/
theorem legalFrequency_reset : legalFrequency 1200 := ⟨by norm_num, 0x44960000, by decide +kernel⟩

theorem modInv_start (chunks : List Chunk) (cfg : Configuration) (ib : List Sample) (active : Agent) :
    ModInv { State.reset with cfg := cfg, cs := chunks, ib := ib, active := active } :=
  ⟨legalFrequency_reset, Nat.zero_le _, fun _ h => absurd h List.not_mem_nil, fun _ h => absurd h List.not_mem_nil⟩

/-- Settles O54: MOD and DEM are at reset, whatever the inputs. -/
theorem resetMeetsTheInvariant : Obligations.ResetMeetsTheInvariant :=
  ⟨⟨modInv_start _ _ _ _, demReset_inv _⟩, fun _ _ => ⟨modInv_start _ _ _ _, demReset_inv _⟩,
    fun _ => ⟨modInv_start _ _ _ _, demReset_inv _⟩⟩

/-! ### Runs -/

theorem exec_next (i : Instr) (s : State) : ∃ t, exec i s = .next t := by
  have h := exec_execEffect i s
  generalize exec i s = o at h
  cases h with
  | raises | emits | setsFrequency | setsPhase | ignores => exact ⟨_, rfl⟩

/-- A running MOD never points outside CS, so its step answers a state. -/
theorem stepMod_next {s : State} (h : ModInv s) (hrun : s.mod.status = .running) : ∃ t, stepMod s = .next t := by
  have hcp : s.mod.cp ≤ s.cs.length := by simpa [Modulator.statusAgrees, hrun] using h.status
  obtain ⟨c, -, hexec⟩ | ⟨-, hend⟩ | ⟨hout, -⟩ := stepMod_cases s
  · exact hexec ▸ exec_next _ s
  · exact ⟨_, hend⟩
  · omega

/-- A step from a state that meets the invariant answers a state, or both units have stopped. -/
theorem step_next_or_stopped {s : State} (h : s.Inv) : (∃ t, step s = .next t) ∨ step s = .fault .unitsStopped := by
  obtain ⟨hrun, hstep⟩ | ⟨-, hstep⟩ | ⟨-, -, hstep⟩ := step_cases s
  · exact .inl (hstep ▸ stepMod_next h.mod ((modRuns_eq_true_iff s).mp hrun))
  · exact .inl ⟨_, hstep⟩
  · exact .inr hstep

theorem run_succ_of_next (M : Core) {s t : M.State} (h : M.step s = .next t) (k : Nat) :
    M.run (k + 1) s = M.run k t := by
  simp only [Core.run, h]

theorem run_succ_of_fault (M : Core) {s : M.State} {r : M.Fault} (h : M.step s = .fault r) (k : Nat) :
    M.run (k + 1) s = .fault r := by
  simp only [Core.run, h]

/-- Settles O55, by induction on the number of steps: each state on the way meets the invariant. -/
theorem runsAreSafe : Obligations.RunsAreSafe := by
  intro s k
  induction k generalizing s with
  | zero => exact fun _ => trivial
  | succ k ih =>
    intro h
    obtain ⟨t, hstep⟩ | hstep := step_next_or_stopped h
    · rw [run_succ_of_next core hstep]
      exact ih t (everyStepKeepsTheInvariant s t h hstep)
    · rw [run_succ_of_fault core hstep]
      rfl

/-- Settles O57: the rank of the reset state is at most the fuel, and every step decreases it. -/
theorem demodulateStops : Obligations.DemodulateStops := fun ib => (demFinal_done ib).1

end Sys2Proof.Machine
end

section
/-! `modulate` ends, and a fault leaves what the chunks before it give alone (R178, R260, R268, R300). -/

namespace Sys2Proof.Machine

open Host (Outcome)

/-! ### One MOD step of a run -/

theorem runMod_of_stopped {s : State} (h : s.mod.status ≠ .running) (fuel : Nat) : runMod fuel s = s := by
  cases fuel with
  | zero => rfl
  | succ fuel => rw [runMod, if_neg (mt (modRuns_eq_true_iff s).mp h)]

theorem runMod_succ {s t : State} (hrun : s.mod.status = .running) (hstep : stepMod s = .next t) (fuel : Nat) :
    runMod (fuel + 1) s = runMod fuel t := by
  rw [runMod, if_pos ((modRuns_eq_true_iff s).mpr hrun), hstep]

theorem stepMod_at_end {s : State} (h : s.mod.cp = s.cs.length) : stepMod s = .next s.finish := by
  have hfetch : s.fetch = .endOfChunks := by simp [State.fetch, h]
  simp only [stepMod, hfetch]

/-- A step of a running MOD: the chunk at the pointer completes or raises, or the run ends (R160, R174, R268). -/
theorem stepMod_run_cases {s : State} (hcp : s.mod.cp ≤ s.cs.length) :
    (∃ c t, s.cs[s.mod.cp]? = some c ∧ exec (decodeChunk c) s = .next t ∧ stepMod s = .next t
        ∧ t.mod.cp = s.mod.cp + 1 ∧ t.mod.status = s.mod.status)
      ∨ (∃ c e, s.cs[s.mod.cp]? = some c ∧ fatalForMod e ∧ stepMod s = .next (s.takeException e))
      ∨ (s.mod.cp = s.cs.length ∧ stepMod s = .next s.finish) := by
  obtain ⟨c, hfetch, hexec⟩ | hend | ⟨hout, -⟩ := stepMod_cases s
  · obtain ⟨t, ht, hnext, hstatus⟩ | ⟨e, hfatal, ht⟩ := chunksAreAtomic (decodeChunk c) s
    · exact .inl ⟨c, t, hfetch, ht, hexec.trans ht, hnext, hstatus⟩
    · exact .inr (.inl ⟨c, e, hfetch, hfatal, hexec.trans ht⟩)
  · exact .inr (.inr hend)
  · omega

/-! ### Where a run stops -/

/-- How a run over `chunks` stopped: at the end, or with a fatal exception at a chunk, and then a run over the chunks before
that one, from the same registers, is `Done` with the same registers. -/
def StopsOver (s final : State) : Prop :=
  final.cs = s.cs ∧ (final.mod.status = .done
    ∨ ∃ e c, final.mod.status = .faulted e final.mod.cp ∧ fatalForMod e ∧ s.cs[final.mod.cp]? = some c
      ∧ s.mod.cp ≤ final.mod.cp
      ∧ ∀ (u : State) (fuel : Nat), u.cfg = s.cfg → u.mod = s.mod → u.cs = s.cs.take final.mod.cp →
        final.mod.cp < fuel + s.mod.cp → (runMod fuel u).mod = { final.mod with status := .done })

/-- A chunk that completes passes on how the rest of the run stops. -/
theorem StopsOver.of_step {s t final : State} {c : Chunk} (hrun : s.mod.status = .running)
    (hfetch : s.cs[s.mod.cp]? = some c) (hexec : exec (decodeChunk c) s = .next t) (hcp : t.mod.cp = s.mod.cp + 1)
    (h : StopsOver t final) : StopsOver s final := by
  have hsame := exec_sameOutside hexec
  obtain ⟨hcs, hdone | ⟨e, c', hstatus, hfatal, hc', hle, hprefix⟩⟩ := h
  · exact ⟨hcs.trans hsame.cs, .inl hdone⟩
  · refine ⟨hcs.trans hsame.cs, .inr ⟨e, c', hstatus, hfatal, hsame.cs ▸ hc', by omega, ?_⟩⟩
    intro u fuel hcfg hmod hu hfuel
    obtain ⟨v, hv, hvmod⟩ := exec_next_of_same hcfg hmod hexec
    have hvsame := exec_sameOutside hv
    have hufetch : u.cs[u.mod.cp]? = some c := by
      rw [hu, hmod, List.getElem?_take_of_lt (by omega), hfetch]
    obtain ⟨fuel, rfl⟩ : ∃ f, fuel = f + 1 := ⟨fuel - 1, by omega⟩
    rw [runMod_succ (hmod ▸ hrun) ((stepMod_eq_exec hufetch).trans hv)]
    exact hprefix v fuel (hvsame.cfg.trans (hcfg.trans hsame.cfg.symm)) hvmod
      (hvsame.cs.trans (hu.trans (by rw [hsame.cs]))) (by omega)

/-- The chunk at the pointer raises: the run over the chunks before it is at its end. -/
theorem stopsOver_takeException {s : State} {c : Chunk} {e : Exception} (hrun : s.mod.status = .running)
    (hfetch : s.cs[s.mod.cp]? = some c) (hfatal : fatalForMod e) : StopsOver s (s.takeException e) := by
  refine ⟨rfl, .inr ⟨e, c, rfl, hfatal, hfetch, le_rfl, fun u fuel _ hmod hu hfuel => ?_⟩⟩
  have hlt := (List.getElem?_eq_some_iff.mp hfetch).1
  have hend : u.mod.cp = u.cs.length := by
    rw [hu, hmod, State.takeException_cp, List.length_take_of_le hlt.le]
  obtain ⟨fuel, rfl⟩ : ∃ f, fuel = f + 1 := ⟨fuel - 1, by rw [State.takeException_cp] at hfuel; omega⟩
  rw [runMod_succ (hmod ▸ hrun) (stepMod_at_end hend), runMod_of_stopped (by simp), State.finish, hmod]
  rfl

/-- With more fuel than chunks left, a run stops. -/
theorem runMod_stopsOver {s : State} {fuel : Nat} (hrun : s.mod.status = .running) (hcp : s.mod.cp ≤ s.cs.length)
    (hfuel : s.cs.length < fuel + s.mod.cp) : StopsOver s (runMod fuel s) := by
  induction fuel generalizing s with
  | zero => omega
  | succ fuel ih =>
    obtain ⟨c, t, hfetch, hexec, hstep, hnext, hstatus⟩ | ⟨c, e, hfetch, hfatal, hstep⟩ | ⟨-, hstep⟩ :=
      stepMod_run_cases hcp
    · have hlt := (List.getElem?_eq_some_iff.mp hfetch).1
      have hcs := (exec_sameOutside hexec).cs
      rw [runMod_succ hrun hstep]
      exact (ih (hstatus.trans hrun) (by rw [hcs]; omega) (by rw [hcs]; omega)).of_step hrun hfetch hexec hnext
    · rw [runMod_succ hrun hstep, runMod_of_stopped (by simp)]
      exact stopsOver_takeException hrun hfetch hfatal
    · rw [runMod_succ hrun hstep, runMod_of_stopped (by simp)]
      exact ⟨rfl, .inl rfl⟩

theorem modFinal_stopsOver (chunks : List Chunk) (cfg : Configuration) :
    StopsOver (modStart chunks cfg) (modFinal chunks cfg) :=
  runMod_stopsOver rfl (Nat.zero_le _) (Nat.lt_succ_self _)

/-! ### What `modulate` returns -/

theorem raisedException_of_done {s : State} (h : s.mod.status = .done) : s.raisedException = none := by
  simp [State.raisedException, h]

theorem raisedException_of_faulted {s : State} {e : Exception} {k : Nat} {c : Chunk} (h : s.mod.status = .faulted e k)
    (hc : s.cs[k]? = some c) : s.raisedException = some (e, some c.id, k) := by
  simp [State.raisedException, State.faultInfo, h, hc]

/-- The chunks before the faulting one give the same stream and identifiers, and no exception. -/
theorem modulate_of_done_prefix {chunks pre : List Chunk} {cfg : Configuration}
    (h : (modFinal pre cfg).mod = { (modFinal chunks cfg).mod with status := .done }) :
    modulate pre cfg
      = { stream := (modulate chunks cfg).stream, ignored := (modulate chunks cfg).ignored, exception := none } := by
  simp only [modulate, raisedException_of_done (congrArg Modulator.status h), h]

/-- Settles O56: how the run stopped says what is returned. -/
theorem modulateStops : Obligations.ModulateStops := by
  intro chunks cfg final
  obtain ⟨hcs, hdone | ⟨e, c, hstatus, hfatal, hc, -, hprefix⟩⟩ := modFinal_stopsOver chunks cfg
  · have hfinal : final.status = .done := hdone
    refine ⟨by simp [hfinal], rfl, rfl, fun _ => raisedException_of_done hdone, fun e k h => ?_⟩
    cases hfinal.symm.trans h
  · have hfinal : final.status = .faulted e final.cp := hstatus
    refine ⟨by simp [hfinal], rfl, rfl, fun h => (by cases hfinal.symm.trans h), fun e' k h => ?_⟩
    obtain ⟨rfl, rfl⟩ := ModStatus.faulted.inj (hfinal.symm.trans h)
    refine ⟨hfatal, c, hc, raisedException_of_faulted hstatus (hcs ▸ hc), modulate_of_done_prefix ?_⟩
    have hlt : final.cp < chunks.length := (List.getElem?_eq_some_iff.mp hc).1
    exact hprefix (modStart (chunks.take final.cp) cfg) _ rfl rfl rfl
      (by rw [List.length_take_of_le hlt.le]; exact Nat.lt_succ_self _)

end Sys2Proof.Machine
end

section
/-! Points and signs of `SINEQ` (R23, R127, R132), cycles without samples (R123), and the order in which a bit is read (R148). -/

namespace Sys2Proof.Machine

open Sys2Proof.Statement

/-! ### Cycles without samples -/

/-- Settles O30: the nearest-even integer of `R / f` is 0 just when the ratio is at most one half, the tie going to 0. -/
theorem cycleIsEmptyAtHighFrequency : Obligations.CycleIsEmptyAtHighFrequency := by
  intro rate f hrate hf
  obtain ⟨hnear, htie⟩ := cycleLengthIsNearestEven rate f hrate hf
  obtain ⟨hlow, hhigh⟩ := abs_le.mp hnear
  refine ⟨fun hzero => ?_, fun hsmall => ?_⟩
  · rw [hzero, Nat.cast_zero, sub_zero] at hhigh
    exact hhigh
  · have hle : (samplesPerCycle rate f : ℚ) ≤ 1 := by linarith
    have hcases : samplesPerCycle rate f = 0 ∨ samplesPerCycle rate f = 1 := by
      have : samplesPerCycle rate f ≤ 1 := by exact_mod_cast hle
      omega
    refine hcases.resolve_right fun hone => ?_
    rw [hone, Nat.cast_one] at hlow htie
    have hhalf : rate / f = 1 / 2 := by linarith
    have := htie (by rw [hhalf]; norm_num)
    omega

/-! ### Exact points -/

theorem roundHalfAway_intCast (k : Int) : roundHalfAway k = k := by
  have hfloor (n : Int) : ⌊(n : ℝ) + 1 / 2⌋ = n := Int.floor_eq_iff.mpr ⟨by linarith, by linarith⟩
  unfold roundHalfAway
  split_ifs
  · exact hfloor k
  · rw [← Int.cast_neg, hfloor, neg_neg]

theorem floor_half_add_half (n : Nat) : ⌊(n : ℝ) / 2 + 1 / 2⌋₊ = (n + 1) / 2 := by
  have hcast : (n : ℝ) / 2 + 1 / 2 = ((n + 1 : Nat) : ℝ) / (2 : Nat) := by push_cast; ring
  rw [hcast, Nat.floor_div_eq_div]

/-- The sample at an angle whose sine is known (R126). -/
theorem sineq_of_sin {amp ph t n : Nat} (hn : 0 < n) {y : ℝ}
    (hsin : Real.sin (ph * Real.pi / 180 + 2 * Real.pi * t / n) = y) : sineq amp ph t n = roundHalfAway (amp * y) := by
  rw [(sineIsRoundedExactly amp ph t n hn).1, hsin]

/-- At sample 0 the angle is the phase. -/
theorem sineq_start {amp ph n : Nat} (hn : 0 < n) {θ y : ℝ} (hθ : (ph : ℝ) * Real.pi / 180 = θ)
    (hsin : Real.sin θ = y) : sineq amp ph 0 n = roundHalfAway (amp * y) :=
  sineq_of_sin hn (by rw [Nat.cast_zero, mul_zero, zero_div, add_zero, hθ, hsin])

/-- Settles O32: the sine of each phase is known, and half an amplitude is rounded away from zero. -/
theorem sineExactPoints : Obligations.SineExactPoints := by
  intro amp n hn
  have hhalf : (0 : ℝ) ≤ (amp : ℝ) / 2 := by positivity
  have hpoint (k : Int) : roundHalfAway (amp * (k : ℝ)) = amp * k := by exact_mod_cast roundHalfAway_intCast (amp * k)
  refine ⟨?zero, ?half, ?quarter, ?threeQuarters, ?twelfth, ?sevenTwelfths⟩
  case zero => simpa using (sineq_start (θ := 0) (y := (0 : Int)) hn (by simp) (by simp)).trans (hpoint 0)
  case half =>
    simpa using (sineq_start (θ := Real.pi) (y := (0 : Int)) hn (by push_cast; ring) (by simp)).trans (hpoint 0)
  case quarter =>
    simpa using (sineq_start (θ := Real.pi / 2) (y := (1 : Int)) hn (by push_cast; ring) (by simp)).trans (hpoint 1)
  case threeQuarters =>
    simpa using (sineq_start (θ := Real.pi / 2 + Real.pi) (y := (-1 : Int)) hn (by push_cast; ring)
      (by simp [Real.sin_add_pi])).trans (hpoint (-1))
  case twelfth =>
    rw [sineq_start (θ := Real.pi / 6) hn (by push_cast; ring) Real.sin_pi_div_six, mul_one_div,
      roundHalfAway_of_nonneg hhalf, floor_half_add_half]
  case sevenTwelfths =>
    rw [sineq_start (θ := Real.pi / 6 + Real.pi) hn (by push_cast; ring) (Real.sin_add_pi _), Real.sin_pi_div_six,
      mul_neg, mul_one_div, roundHalfAway_neg_of_nonneg hhalf, floor_half_add_half]

/-- Settles O35: a period of the phase is a whole number of turns. -/
theorem phaseIsPeriodic : Obligations.PhaseIsPeriodic := by
  intro amp ph t n
  have hangle : ((ph + 360) * n + 360 * t) % (360 * n) = (ph * n + 360 * t) % (360 * n) := by
    rw [show (ph + 360) * n + 360 * t = ph * n + 360 * t + 360 * n by ring, Nat.add_mod_right]
  rw [sineq, sineq, hangle]

/-! ### Signs -/

theorem sineMagnitude_zero {half : Nat} (hhalf : 0 < half) (amp : Nat) : sineMagnitude amp 0 half = 0 := by
  rw [sineMagnitude_eq_floor hhalf]
  norm_num

/-- At phase 180 the samples up to the half-way point are in the second half turn, and the others in the first. -/
theorem sineq_180 (amp : Nat) {t n : Nat} (ht : t < n) : sineq amp 180 t n
    = if 2 * t < n then -(sineMagnitude amp (360 * t) (180 * n) : Int)
      else (sineMagnitude amp (360 * t - 180 * n) (180 * n) : Int) := by
  unfold sineq
  split_ifs with hfirst hhalf hhalf
  · rw [Nat.mod_eq_of_lt (by omega)] at hfirst
    omega
  · rw [Nat.mod_eq_sub_mod (by omega), Nat.mod_eq_of_lt (by omega)]
    congr 2
    omega
  · rw [Nat.mod_eq_of_lt (by omega)]
    congr 3
    omega
  · rw [Nat.mod_eq_sub_mod (by omega), Nat.mod_eq_of_lt (by omega)] at hfirst
    omega

/-- Settles O34: the half turn a sample lies in gives its sign, and it is 0 where the half turn begins. -/
theorem cycleBeginsWithNegativeHalf : Obligations.CycleBeginsWithNegativeHalf := by
  intro amp n t ht
  rw [sineq_180 amp ht]
  refine ⟨fun hstart => ?_, fun hmiddle => ?_, fun _ hbefore => ?_, fun hafter => ?_⟩
  · rw [if_pos (by omega), hstart, Nat.mul_zero, sineMagnitude_zero (by omega)]
    rfl
  · rw [if_neg (by omega), show 360 * t - 180 * n = 0 by omega, sineMagnitude_zero (by omega)]
    rfl
  · rw [if_pos hbefore]
    exact neg_nonpos.mpr (Int.natCast_nonneg _)
  · rw [if_neg (by omega)]
    exact Int.natCast_nonneg _

/-! ### The order in which a bit is read -/

/-- A cycle that is accepted was read as two pulses that pass the phase and ratio checks (R142). -/
theorem classifyCycle_ok_pulses {ib : List Sample} {p f l1 l2 next : Nat} (h : classifyCycle ib p f = .ok l1 l2 next) :
    ∃ g1 p1 g2, readPulse ib p = .pulse g1 l1 p1 ∧ readPulse ib p1 = .pulse g2 l2 next ∧ g1 ≠ g2
      ∧ 5 * max l1 l2 ≤ 8 * min l1 l2 := by
  have hratio := (classifyCycle_ok h).2.2.2.2.1
  unfold classifyCycle at h
  cases h1 : readPulse ib p with
  | endOfStream => simp [h1] at h
  | pulse g1 m1 p1 =>
    cases h2 : readPulse ib p1 with
    | endOfStream => simp [h1, h2] at h
    | pulse g2 m2 p2 =>
      simp only [h1, h2, checkCycle] at h
      split_ifs at h with hg
      obtain ⟨rfl, rfl, rfl⟩ := CycleResult.ok.inj h
      exact ⟨g1, p1, g2, rfl, h2, hg, hratio⟩

/-- A fast cycle is no slow cycle: the two windows do not meet (R147). -/
theorem classifyCycle_slow_of_fast {ib : List Sample} {p l1 l2 next : Nat}
    (h : classifyCycle ib p 2400 = .ok l1 l2 next) : classifyCycle ib p 1200 = .frequencyMismatch := by
  obtain ⟨g1, p1, g2, h1, h2, hg, hratio⟩ := classifyCycle_ok_pulses h
  rw [classifyCycle_pulses h1 h2] at h
  obtain ⟨-, hshort⟩ := ((acceptanceWindows g1 g2 l1 l2 next hg hratio).1.mp h)
  rw [classifyCycle_pulses h1 h2, checkCycle_of_phase_ratio hg (not_lt.mpr hratio), if_pos]
  exact lt_abs.mpr (.inl (by push_cast; omega))

theorem readStop_stop_fast {ib : List Sample} {p next : Nat} (h : readStop ib p = .stop next) :
    ∃ l1 l2 q, classifyCycle ib p 2400 = .ok l1 l2 q := by
  rw [readStop, fFast] at h
  cases hc : classifyCycle ib p 2400 with
  | ok l1 l2 q => exact ⟨l1, l2, q, rfl⟩
  | _ => simp [hc] at h

/-- Settles O42: where the two fast cycles are read, the slow cycle is not; elsewhere both orders ask both. -/
theorem bitReadingOrderIsIndifferent : Obligations.BitReadingOrderIsIndifferent := by
  intro ib p
  rw [readBit, fSlow]
  cases hstop : readStop ib p with
  | stop next =>
    obtain ⟨l1, l2, q, hfast⟩ := readStop_stop_fast hstop
    simp only [classifyCycle_slow_of_fast hfast, readOne, hstop]
  | fail => cases classifyCycle ib p 1200 <;> simp only [readOne, hstop]
  | endOfStream => cases classifyCycle ib p 1200 <;> simp only [readOne, hstop]

end Sys2Proof.Machine
end

section
/-! The number of samples each chunk adds (R161 to R177). -/

namespace Sys2Proof.Machine

open Sys2Proof.Statement

/-! ### Tones and frames -/

theorem State.slowCycle_length (s : State) :
    s.slowCycle.length = samplesPerCycle s.cfg.rate s.mod.baseFrequency := s.cycle_length _ _

theorem State.fastCycle_length (s : State) :
    s.fastCycle.length = samplesPerCycle s.cfg.rate (2 * s.mod.baseFrequency) := s.cycle_length _ _

theorem bitTone_length (slow fast : List Sample) (b : Bool) :
    (bitTone slow fast b).length = if b then 2 * fast.length else slow.length := by
  cases b with
  | false => rfl
  | true => exact (List.length_append).trans (Nat.two_mul _).symm

theorem onesOf_eq_count (v : Byte) (nbits : Nat) : onesOf v nbits = (dataBits v nbits).count true := by
  rw [dataBits_eq_map_div, List.count, List.countP_map, onesOf, ← List.countP_eq_length_filter]
  exact List.countP_congr fun i _ => by simp

theorem dataBits_tones_length (slow fast : List Sample) (v : Byte) (nbits : Nat) :
    ((dataBits v nbits).flatMap (bitTone slow fast)).length
      = (nbits - onesOf v nbits) * slow.length + 2 * onesOf v nbits * fast.length := by
  have hcount : (dataBits v nbits).count false + onesOf v nbits = nbits := by
    rw [onesOf_eq_count, List.count_false_add_count_true, dataBits_length]
  rw [flatMap_bitTone_length, ← onesOf_eq_count, show (dataBits v nbits).count false = nbits - onesOf v nbits by omega]
  ring

/-- The parity tone by the number of ones (R163). -/
theorem parityBit_tones_length (slow fast : List Sample) (parity : Byte) (v : Byte) (nbits : Nat) :
    ((parityBit parity (dataBits v nbits)).flatMap (bitTone slow fast)).length
      = if parity = 0x45 then (if onesOf v nbits % 2 = 1 then 2 * fast.length else slow.length)
        else if parity = 0x4F then (if onesOf v nbits % 2 = 1 then slow.length else 2 * fast.length) else 0 := by
  rw [flatMap_bitTone_parityBit, parityOf_eq_decide_count, ← onesOf_eq_count]
  split_ifs with heven hodd hodd hodd <;> simp [bitTone_length, *]

theorem frame_length (slow fast : List Sample) (v : Byte) (nbits : Nat) (parity : Byte) (stops : Int) :
    (frame slow fast v nbits parity stops).length = frameCount slow.length fast.length nbits parity stops v := by
  have hextra : (if stops < 0 then fast else []).length = if stops < 0 then fast.length else 0 := by split_ifs <;> rfl
  have hstops : (List.replicate stops.natAbs (fast ++ fast)).flatten.length = 2 * stops.natAbs * fast.length := by
    rw [List.length_flatten, List.map_replicate, List.sum_replicate, List.length_append, smul_eq_mul]
    ring
  rw [frame, flatMap_bitTone_frameBits, List.length_append, List.length_append, List.length_append, List.length_append,
    dataBits_tones_length, parityBit_tones_length, hstops, hextra, frameCount]
  ring

/-- The count of a frame as 0x100 makes it (R164, R177). -/
theorem frameCount_plain (S F : Nat) (v : Byte) :
    frameCount S F 8 0x4E 1 v = S + (8 - onesOf v 8) * S + 2 * onesOf v 8 * F + 2 * F := by
  simp [frameCount]

theorem frames_length (slow fast : List Sample) (bytes : List Byte) (nbits : Nat) (parity : Byte) (stops : Int) :
    (bytes.flatMap fun v => frame slow fast v nbits parity stops).length
      = (bytes.map (frameCount slow.length fast.length nbits parity stops)).sum := by
  rw [List.length_flatMap]
  simp only [frame_length]

theorem replicate_flatten_length (n : Nat) (xs : List Sample) : (List.replicate n xs).flatten.length = n * xs.length := by
  simp

/-- The cycle or pulse of one bit of 0x114 (R129, R170, R171). -/
theorem securityTone_length (s : State) (f : ℚ) (first last : Prop) [Decidable first] [Decidable last] :
    (if first then s.highPulse f s.amp else if last then s.lowPulse f s.amp else s.cycle f s.amp).length
      = if first then samplesPerCycle s.cfg.rate f / 2
        else if last then (samplesPerCycle s.cfg.rate f + 1) / 2 else samplesPerCycle s.cfg.rate f := by
  split_ifs
  · exact s.highPulse_length f _
  · exact s.lowPulse_length f _
  · exact s.cycle_length f _

/-! ### What a chunk adds -/

/-- OS grows by what the chunk emits. -/
theorem out_length_of_afterEmit {i : Instr} {s t : State} {xs : List Sample} (hemit : exec i s = .next (afterEmit s xs))
    (h : exec i s = .next t) : t.mod.out.length = s.mod.out.length + xs.length := by
  cases hemit.symm.trans h
  exact List.length_append

theorem out_length_of_not_renders {i : Instr} {s t : State} (h : exec i s = .next t) (hi : rendersSamples i = false) :
    t.mod.out.length = s.mod.out.length := by
  rw [exec_out_of_not_renders h hi]

/-- A chunk that changes the status raised, and emitted nothing (R174). -/
theorem out_eq_of_status_ne {i : Instr} {s t : State} (h : exec i s = .next t) (hstatus : t.mod.status ≠ s.mod.status) :
    t.mod.out = s.mod.out := by
  cases execEffect_of_next h with
  | raises => rfl
  | emits | setsFrequency | setsPhase | ignores => exact absurd rfl hstatus

/-- Settles O28: the samples that each rule emits, counted. -/
theorem sampleCounts : Obligations.SampleCounts := by
  intro s S F byteCount
  have hS : s.slowCycle.length = S := s.slowCycle_length
  have hF : s.fastCycle.length = F := s.fastCycle_length
  refine ⟨hS, by rw [bitTone_length, hF]; rfl, fun payload t h => ?data, fun nbits parity stops bytes t h => ?dfmt,
    fun payload t hlong h => ?carrier, fun payload t hlong h => ?gap, fun payload t hlong h => ?dummy,
    ?security, fun payload sec t hlong hvalue h => ?fgap,
    fun payload t h => ?registers, fun id payload t h => out_length_of_not_renders h rfl,
    fun i t h hstatus => by rw [out_eq_of_status_ne h hstatus]⟩
  case data =>
    rw [out_length_of_afterEmit (dataFramesEveryByte.1 payload s) h, frames_length, hS, hF,
      funext (frameCount_plain S F)]
  case dfmt =>
    rw [out_length_of_afterEmit (dfmtFramesAsConfigured.1 nbits parity stops bytes s) h, frames_length, hS, hF]
  case carrier =>
    rw [out_length_of_afterEmit ((carrierEmitsFastCycles payload s).1 hlong) h, replicate_flatten_length, hF]
  case gap =>
    rw [out_length_of_afterEmit ((gapEmitsSilenceAtFastRate payload s).1 hlong) h, List.length_replicate]
  case dummy =>
    rw [out_length_of_afterEmit ((dummyEmitsFramedByteBetweenTones payload s).1 hlong) h, List.length_append,
      List.length_append, replicate_flatten_length, replicate_flatten_length, frame_length, hS, hF, frameCount_plain]
    ring
  case security =>
    intro lo hi first last bits t count N hfits h
    rw [out_length_of_afterEmit ((securityRendersABitEach lo hi first last bits s).1 hfits) h, List.length_flatMap]
    have hN (k : Nat) : samplesPerCycle s.cfg.rate (if (bits.getD (k / 8) 0).getLsbD (7 - k % 8)
        then 2 * s.mod.baseFrequency else s.mod.baseFrequency) = N k := apply_ite _ _ _ _
    simp only [securityTone_length, hN]
    rfl
  case fgap =>
    refine ⟨gapSampleCount s.cfg.rate sec, ?_, fun hnonpos => gapSampleCount_of_nonpos _ hnonpos,
      fun hpos hrate => gapSampleCount_nearest hrate hpos⟩
    rw [out_length_of_afterEmit (exec_fgap_of_finite hlong hvalue s) h, List.length_replicate]
  case registers =>
    obtain h | h := h
    · exact out_length_of_not_renders h rfl
    · exact out_length_of_not_renders h rfl

end Sys2Proof.Machine
end

section
/-! The WAV container (R101, R102, R262): the header that is written, the fields that are read back, and the refusals. -/

namespace Sys2Proof.Machine

open Sys2Proof.Statement

/-! ### The fields of a byte sequence -/

theorem leBytes_two (n : Nat) : leBytes 2 n = u16Bytes n := rfl

/-- A `u32` is its low `u16` before its high one (R53). -/
theorem leBytes_four (n : Nat) : leBytes 4 n = u16Bytes n ++ u16Bytes (n / 65536) := by
  simp [leBytes, u16Bytes, Nat.div_div_eq_div_mul]

theorem u16At_drop (bytes : List Byte) (off k : Nat) : u16At (bytes.drop off) k = u16At bytes (off + k) := by
  simp only [u16At, List.getD_eq_getElem?_getD, List.getElem?_drop, Nat.add_assoc]

theorem fieldAt_two {bytes : List Byte} {off : Nat} (h : off + 2 ≤ bytes.length) : fieldAt bytes off 2 = u16At bytes off :=
  leNat_take_two h

theorem fieldAt_four {bytes : List Byte} {off : Nat} (h : off + 4 ≤ bytes.length) :
    fieldAt bytes off 4 = u16At bytes off + 65536 * u16At bytes (off + 2) := by
  rw [fieldAt, leNat_take_four (by rw [List.length_drop]; omega), u16At_drop, u16At_drop, Nat.add_zero]

/-- What the check of a header asks (R101, R262). -/
theorem wavHeaderOk_iff (bytes : List Byte) : wavHeaderOk bytes = true ↔
    44 ≤ bytes.length ∧ bytes.take 4 = tagRiff ∧ (bytes.drop 8).take 4 = tagWave ∧ (bytes.drop 12).take 4 = tagFmt
      ∧ fieldAt bytes 16 4 = 16 ∧ fieldAt bytes 20 2 = 1 ∧ fieldAt bytes 22 2 = 1 ∧ fieldAt bytes 24 4 = rDem
      ∧ (bytes.drop 36).take 4 = tagData := by
  simp only [wavHeaderOk, Bool.and_eq_true, decide_eq_true_eq, and_assoc]

/-! ### Writing -/

/-- The number of bits a depth is written with. -/
theorem writeWav_ok (depth : Depth) (xs : List Sample) :
    writeWav 44100 (depthBits depth) xs
      = .ok (wavHeader depth (storeSamples depth xs).length ++ storeSamples depth xs) := by
  cases depth <;> rfl

/-- The header is the 44 bytes of R101's table before the data. -/
theorem wavHeader_append (depth : Depth) (data : List Byte) :
    wavHeader depth data.length ++ data = wavBytes depth data := by
  cases depth <;> simp only [wavHeader, leBytes_four, wavBytes, List.append_assoc] <;> rfl

/-! ### Reading what was written -/

theorem wavBytes_length (depth : Depth) (data : List Byte) : (wavBytes depth data).length = data.length + 44 := by
  cases depth <;> simp [wavBytes, u16Bytes]

theorem wavBytes_headerOk (depth : Depth) (data : List Byte) : wavHeaderOk (wavBytes depth data) = true := by
  rw [wavHeaderOk_iff, wavBytes_length]
  cases depth <;> simp [wavBytes, u16Bytes, fieldAt, leNat, tagRiff, tagWave, tagFmt, tagData, rDem]

theorem wavBytes_depthBits (depth : Depth) (data : List Byte) :
    fieldAt (wavBytes depth data) 34 2 = depthBits depth := by
  cases depth <;> simp [wavBytes, u16Bytes, fieldAt, depthBits]

theorem wavBytes_lengthField (depth : Depth) (data : List Byte) :
    fieldAt (wavBytes depth data) 40 4 = leNat (leBytes 4 data.length) := by
  rw [leBytes_four]
  cases depth <;> simp [wavBytes, u16Bytes, fieldAt]

theorem wavBytes_drop_header (depth : Depth) (data : List Byte) : (wavBytes depth data).drop 44 = data := by
  cases depth <;> simp [wavBytes, u16Bytes]

/-- The length field gives the data back, as long as it does not wrap. -/
theorem wavData_wavBytes (depth : Depth) {data : List Byte} (h : data.length < 2 ^ 32) :
    wavData (wavBytes depth data) = data := by
  have hlength : leNat (leBytes 4 data.length) = data.length := by
    rw [leNat_leBytes, Nat.mod_eq_of_lt (show _ < 256 ^ 4 from h)]
  rw [wavData, wavBytes_lengthField, hlength, wavBytes_drop_header, List.take_length]

theorem readWav_wavBytes (depth : Depth) {data : List Byte} (h : data.length < 2 ^ 32) :
    readWav (wavBytes depth data) = .ok (depth, loadSamples depth data) := by
  rw [readWav, if_pos (wavBytes_headerOk depth data), wavBytes_depthBits, wavData_wavBytes depth h]
  cases depth <;> rfl

/-! ### Refusals -/

/-- A field that R262 checks is wrong: the header is refused, or the number of bits is. -/
theorem readWav_unsupported {bytes : List Byte}
    (h : u16At bytes 20 ≠ 1 ∨ u16At bytes 22 ≠ 1 ∨ u16At bytes 24 + 65536 * u16At bytes 26 ≠ 44100
      ∨ (u16At bytes 34 ≠ 8 ∧ u16At bytes 34 ≠ 16)) : readWav bytes = .error .unsupportedFormat := by
  rw [readWav]
  split_ifs with hok h16 h8
  case neg => rfl
  case neg => rfl
  all_goals
    obtain ⟨hlength, -, -, -, -, hformat, hchannels, hrate, -⟩ := (wavHeaderOk_iff bytes).mp hok
    rw [fieldAt_two (by omega)] at hformat hchannels
    rw [rDem] at hrate
    have hrateField : fieldAt bytes 24 4 = u16At bytes 24 + 65536 * u16At bytes 26 := fieldAt_four (by omega)
    have hbits : fieldAt bytes 34 2 = u16At bytes 34 := fieldAt_two (by omega)
    omega

/-- Settles O8: the written bytes are the table's, and reading asks of each field what the table holds. -/
theorem wavRoundTrip : Obligations.WavRoundTrip := by
  refine ⟨fun depth xs hrange hlength => ?written, fun xs rate bits h => ?rate, fun bytes h => ?header⟩
  case written =>
    have hread : readWav (wavBytes depth (storeSamples depth xs)) = .ok (depth, xs) := by
      rw [readWav_wavBytes depth (by omega), loadSamples_storeSamples depth xs hrange]
    refine ⟨?_, hread, by rw [demodulateWav, hread]⟩
    rw [← wavHeader_append, ← writeWav_ok]
    cases depth <;> rfl
  case rate =>
    unfold writeWav
    split_ifs with hrate h16 h8
    · exact absurd h16 (h.resolve_left (not_not.mpr hrate)).2
    · exact absurd h8 (h.resolve_left (not_not.mpr hrate)).1
    · rfl
    · rfl
  case header =>
    have hread := readWav_unsupported h
    exact ⟨hread, by rw [demodulateWav, hread]⟩

end Sys2Proof.Machine
end

section
/-! The text of chunk programs (R103, R104): what numbers and mnemonics read as, and the chunk a line expands to. -/

namespace Sys2Proof.Machine

open Sys2Proof.Statement

/-! ### Digits -/

/-- The characters of the sixteen digits, by the two ranges that `digitValue` knows them by. -/
theorem digitChar_range : ∀ d < 16, ('0' ≤ digitChar d ∧ digitChar d ≤ '9' ∧ (digitChar d).toNat - 48 = d)
    ∨ (¬digitChar d ≤ '9' ∧ 'a' ≤ digitChar d ∧ digitChar d ≤ 'f' ∧ (digitChar d).toNat - 87 = d) := by decide

/-- No digit is a quote, a point, a minus sign or a base letter. -/
theorem digitChar_plain : ∀ d < 10, digitChar d ≠ '\'' ∧ digitChar d ≠ '.' ∧ digitChar d ≠ '-' ∧ digitChar d ≠ 'x'
    ∧ digitChar d ≠ 'b' := by decide

theorem digitValue_digitChar {base d : Nat} (hbase : base ≤ 16) (hd : d < base) :
    digitValue base (digitChar d) = some d := by
  unfold digitValue
  obtain ⟨hlow, hhigh, hvalue⟩ | ⟨hdecimal, hlow, hhigh, hvalue⟩ := digitChar_range d (by omega)
  · rw [hvalue, if_pos ⟨hlow, hhigh, hd⟩]
  · rw [if_neg fun h => hdecimal h.2.1, hvalue, if_pos ⟨hlow, hhigh, hd⟩]

theorem digits_map_digitChar {base : Nat} (hbase : base ≤ 16) {ds : List Nat} (hds : ∀ d ∈ ds, d < base) (acc : Nat) :
    digits base acc (ds.map digitChar) = some (ds.foldl (fun v d => base * v + d) acc) := by
  induction ds generalizing acc with
  | nil => rfl
  | cons d ds ih =>
    obtain ⟨hd, hrest⟩ := List.forall_mem_cons.mp hds
    rw [List.map_cons, digits, digitValue_digitChar hbase hd]
    exact ih hrest _

theorem natOf_map_digitChar {base : Nat} (hbase : base ≤ 16) {ds : List Nat} (hne : ds ≠ [])
    (hds : ∀ d ∈ ds, d < base) : natOf base (ds.map digitChar) = some (digitsValue base ds) := by
  rw [natOf, if_neg (by simpa using hne), digits_map_digitChar hbase hds]
  rfl

/-! ### Numbers -/

theorem splitFirst_cons {c x : Char} (hx : x ≠ '\'') (xs : List Char) :
    splitFirst c (x :: xs) = if x = c then ([], some xs) else (x :: (splitFirst c xs).1, (splitFirst c xs).2) := by
  rw [splitFirst]
  rintro q ys rfl
  exact absurd rfl hx

theorem splitFirst_append {c : Char} {cs : List Char} (hplain : ∀ x ∈ cs, x ≠ '\'' ∧ x ≠ c) (rest : List Char) :
    splitFirst c (cs ++ rest) = (cs ++ (splitFirst c rest).1, (splitFirst c rest).2) := by
  induction cs with
  | nil => rfl
  | cons x xs ih =>
    obtain ⟨⟨hquote, hx⟩, hrest⟩ := List.forall_mem_cons.mp hplain
    rw [List.cons_append, splitFirst_cons hquote, if_neg hx, ih hrest]
    rfl

theorem map_digitChar_plain {ds : List Nat} (hds : ∀ d ∈ ds, d < 10) : ∀ x ∈ ds.map digitChar, x ≠ '\'' ∧ x ≠ '.' := by
  intro x hx
  obtain ⟨d, hd, rfl⟩ := List.mem_map.mp hx
  obtain ⟨hquote, hpoint, -⟩ := digitChar_plain d (hds d hd)
  exact ⟨hquote, hpoint⟩

/-- Digits without a point are the whole number. -/
theorem decimal_map_digitChar {ds : List Nat} (hne : ds ≠ []) (hds : ∀ d ∈ ds, d < 10) :
    decimal (ds.map digitChar) = some (digitsValue 10 ds : ℚ) := by
  have hsplit := splitFirst_append (map_digitChar_plain hds) []
  rw [List.append_nil, splitFirst, List.append_nil] at hsplit
  rw [decimal, hsplit]
  simp only [natOf_map_digitChar (by decide) hne hds]
  rfl

/-- Digits after a point count as that many decimal places. -/
theorem decimal_fraction {ws fs : List Nat} (hws : ws ≠ []) (hfs : fs ≠ []) (hds : ∀ d ∈ ws ++ fs, d < 10) :
    decimal (ws.map digitChar ++ '.' :: fs.map digitChar) = some ((digitsValue 10 (ws ++ fs) : ℚ) / 10 ^ fs.length) := by
  obtain ⟨hwhole, hfraction⟩ := List.forall_mem_append.mp hds
  have hsplit := splitFirst_append (map_digitChar_plain hwhole) ('.' :: fs.map digitChar)
  rw [splitFirst_cons (by decide), if_pos rfl, List.append_nil] at hsplit
  have hall : natOf 10 (ws.map digitChar ++ fs.map digitChar) = some (digitsValue 10 (ws ++ fs)) := by
    rw [← List.map_append]
    exact natOf_map_digitChar (by decide) (by simp [hws]) hds
  rw [decimal, hsplit]
  simp only [natOf_map_digitChar (base := 10) (by decide) hws hwhole,
    natOf_map_digitChar (base := 10) (by decide) hfs hfraction, hall, List.length_map]
  refine congrArg some ((Rat.mkRat_eq_div _ _).trans ?_)
  push_cast
  rfl

/-- What begins with a digit and has no base letter after it is read as a decimal number. -/
theorem number_of_digit {c : Char} {cs : List Char} (hminus : c ≠ '-') (hquote : c ≠ '\'')
    (hbase : ∀ e, cs.head? = some e → e ≠ 'x' ∧ e ≠ 'b') :
    number (c :: cs) = decimal (c :: cs) ∧ number ('-' :: c :: cs) = (decimal (c :: cs)).map fun v => -v := by
  have hunsigned : unsignedNumber (c :: cs) = decimal (c :: cs) := by
    unfold unsignedNumber
    split
    next h => exact absurd rfl (hbase 'x' (by rw [(List.cons.inj h).2]; rfl)).1
    next h => exact absurd rfl (hbase 'b' (by rw [(List.cons.inj h).2]; rfl)).2
    next h => exact absurd (List.cons.inj h).1 hquote
    next => rfl
  constructor
  · rw [number, hunsigned]
    rintro ys h
    exact hminus (List.cons.inj h).1
  · rw [number, hunsigned]

/-- The same for digits in front of something that does not begin with a base letter. -/
theorem number_of_digits {ds : List Nat} (hne : ds ≠ []) (hds : ∀ d ∈ ds, d < 10) {rest : List Char}
    (hrest : ∀ e, rest.head? = some e → e ≠ 'x' ∧ e ≠ 'b') :
    number (ds.map digitChar ++ rest) = decimal (ds.map digitChar ++ rest)
      ∧ number ('-' :: (ds.map digitChar ++ rest)) = (decimal (ds.map digitChar ++ rest)).map fun v => -v := by
  obtain ⟨d, ds, rfl⟩ := List.exists_cons_of_ne_nil hne
  obtain ⟨hd, htail⟩ := List.forall_mem_cons.mp hds
  obtain ⟨hquote, -, hminus, -⟩ := digitChar_plain d hd
  refine number_of_digit hminus hquote fun e he => ?_
  cases ds with
  | nil => exact hrest e he
  | cons d' ds =>
    obtain rfl := Option.some.inj he
    obtain ⟨-, -, -, hx, hb⟩ := digitChar_plain d' (htail d' (by simp))
    exact ⟨hx, hb⟩

/-! ### Operands -/

theorem fieldOf_natCast {n : Nat} (b : BitVec n) : fieldOf n (b.toNat : ℚ) = some b := by
  have hrange : ((b.toNat : Nat) : Int) < 2 ^ n := by exact_mod_cast b.isLt
  rw [fieldOf, Rat.num_natCast, if_pos ⟨Rat.den_natCast _, Int.natCast_nonneg _, hrange⟩, Int.toNat_natCast,
    BitVec.ofNat_toNat, BitVec.setWidth_eq]

theorem bytesOf_map_toNat (bs : List Byte) : bytesOf (bs.map fun b => (b.toNat : ℚ)) = some bs := by
  induction bs with
  | nil => rfl
  | cons b bs ih =>
    rw [bytesOf] at ih ⊢
    rw [List.map_cons, List.mapM_cons, fieldOf_natCast, ih]
    rfl

theorem signedByte_intCast {st : Int} (hlow : -128 ≤ st) (hhigh : st < 128) : signedByte (st : ℚ) = some st := by
  rw [signedByte, Rat.num_intCast, if_pos ⟨Rat.den_intCast _, hlow, hhigh⟩]

/-! ### The bytes of a line -/

theorem ofInt_eq_ofNat_emod (st : Int) : BitVec.ofInt 8 st = BitVec.ofNat 8 (st % 256).toNat := by
  apply BitVec.eq_of_toNat_eq
  rw [BitVec.toNat_ofInt, BitVec.toNat_ofNat]
  omega

/-- The four bytes of a binary32 hold it (R53, R88). -/
theorem f32At0_leBytes (w : U32) : f32At0 (leBytes 4 w.toNat) = w := by
  have hfield := leNat_take_four (payload := leBytes 4 w.toNat) (by simp)
  rw [List.take_of_length_le (by simp), leNat_leBytes, Nat.mod_eq_of_lt (show _ < 256 ^ 4 from w.isLt)] at hfield
  rw [f32At0, ← hfield, BitVec.ofNat_toNat, BitVec.setWidth_eq]

/-! ### The line of each mnemonic -/

theorem lineOf_data (bs : List ℚ) : lineOf "data".toList bs = (bytesOf bs).map .data := rfl

theorem lineOf_dfmt (n p st : ℚ) (bs : List ℚ) : lineOf "dfmt".toList (n :: p :: st :: bs) = do
    return .dfmt (← fieldOf 8 n) (← fieldOf 8 p) (← signedByte st) (← bytesOf bs) := rfl

theorem lineOf_carrier (n : ℚ) : lineOf "carrier".toList [n] = (fieldOf 16 n).map .carrier := rfl

theorem lineOf_dummy (n m : ℚ) : lineOf "dummy".toList [n, m] = do
    return .dummy (← fieldOf 16 n) (← fieldOf 16 m) := rfl

theorem lineOf_gap (n : ℚ) : lineOf "gap".toList [n] = (fieldOf 16 n).map .gap := rfl

theorem lineOf_basefreq (f : ℚ) : lineOf "basefreq".toList [f] = some (.basefreq f) := rfl

theorem lineOf_security (lo hi first last : ℚ) (bs : List ℚ) :
    lineOf "security".toList (lo :: hi :: first :: last :: bs) = do
      return .security (← fieldOf 8 lo) (← fieldOf 8 hi) (← fieldOf 8 first) (← fieldOf 8 last) (← bytesOf bs) := rfl

theorem lineOf_phase (n : ℚ) : lineOf "phase".toList [n] = (fieldOf 16 n).map .phase := rfl

theorem lineOf_fgap (sec : ℚ) : lineOf "fgap".toList [sec] = some (.fgap sec) := rfl

theorem lineOf_chunk (id : ℚ) (bs : List ℚ) : lineOf "chunk".toList (id :: bs) = do
    return .chunk (← fieldOf 16 id) (← bytesOf bs) := rfl

/-- Settles O6: the numbers by their digits, each mnemonic by its operands, each line by its bytes, and the four programs by
evaluation. -/
theorem shorthandsExpandToOneChunk : Obligations.ShorthandsExpandToOneChunk := by
  refine ⟨⟨fun ds hne hds => ?decimal, fun ds hne hds => ?hexadecimal, fun c => rfl, fun ws fs hws hfs hds => ?signed⟩,
    ?mnemonics, ?expansions, fun text ls h => by rw [assemble, h]; rfl, ?_, ?_, ?_, ?_⟩
  case decimal =>
    have hread := (number_of_digits hne hds (rest := []) (by simp)).1
    rwa [List.append_nil, decimal_map_digitChar hne hds] at hread
  case hexadecimal =>
    change unsignedNumber ('0' :: 'x' :: ds.map digitChar) = _
    rw [unsignedNumber, natOf_map_digitChar le_rfl hne hds]
    rfl
  case signed =>
    have hwhole : ∀ d ∈ ws, d < 10 := (List.forall_mem_append.mp hds).1
    constructor
    · rw [(number_of_digits hws hwhole (by simp)).1, decimal_fraction hws hfs hds]
    · have hread := (number_of_digits hws hwhole (rest := []) (by simp)).2
      rwa [List.append_nil, decimal_map_digitChar hws hwhole, Option.map_some] at hread
  case mnemonics =>
    refine ⟨fun bs => ?_, fun n p st bs hlow hhigh => ?_, fun n => ?_, fun n m => ?_, fun n => ?_, lineOf_basefreq,
      fun lo hi first last bs => ?_, fun n => ?_, lineOf_fgap, fun id bs => ?_⟩
    · rw [lineOf_data, bytesOf_map_toNat]; rfl
    · rw [lineOf_dfmt, fieldOf_natCast, fieldOf_natCast, signedByte_intCast hlow hhigh, bytesOf_map_toNat]; rfl
    · rw [lineOf_carrier, fieldOf_natCast]; rfl
    · rw [lineOf_dummy, fieldOf_natCast, fieldOf_natCast]; rfl
    · rw [lineOf_gap, fieldOf_natCast]; rfl
    · rw [lineOf_security, fieldOf_natCast, fieldOf_natCast, fieldOf_natCast, fieldOf_natCast, bytesOf_map_toNat]; rfl
    · rw [lineOf_phase, fieldOf_natCast]; rfl
    · rw [lineOf_chunk, fieldOf_natCast, bytesOf_map_toNat]; rfl
  case expansions =>
    refine ⟨fun _ => rfl, fun n p st bs => ?_, fun _ => rfl, fun _ _ => rfl, fun _ => rfl,
      fun f => ⟨_, rfl, leBytes_length _ _, f32At0_leBytes _⟩, fun _ _ _ _ _ => rfl, fun _ => rfl,
      fun sec => ⟨_, rfl, leBytes_length _ _, f32At0_leBytes _⟩, fun _ _ => rfl⟩
    rw [Line.expand, ofInt_eq_ofNat_emod]
  all_goals decide +kernel

end Sys2Proof.Machine
end

section
/-! The binary32 format (R88) and rounding to it (R10): the value of a word by its sign and its units of `2^(-149)`, the units
that a packed significand has, and that no finite word is nearer to a ratio than the one `f32NearestRatio` packs. -/

namespace Sys2Proof.Machine

open Sys2Proof.Statement

/-! ### The value of a word -/

theorem f32Negative_eq (w : U32) : f32Negative w = decide (2 ^ 31 ≤ w.toNat) := by
  have hlt : w.toNat < 2 ^ 32 := w.isLt
  rw [f32Negative, BitVec.getLsbD, Nat.testBit_eq_decide_div_mod_eq, decide_eq_decide]
  omega

/-- The factor of the sign bit. -/
def f32Sign (w : U32) : ℚ := if f32Negative w then -1 else 1

theorem f32Sign_eq (w : U32) : f32Sign w = if 2 ^ 31 ≤ w.toNat then -1 else 1 := by
  rw [f32Sign, f32Negative_eq]
  simp only [decide_eq_true_eq]

theorem f32Sign_cases (w : U32) : f32Sign w = 1 ∨ f32Sign w = -1 := by
  unfold f32Sign
  split_ifs
  · exact .inr rfl
  · exact .inl rfl

theorem f32Value_of_finite {w : U32} (h : f32Exponent w ≠ 255) :
    f32Value w = .finite (f32Sign w * (f32Units w / 2 ^ 149)) := by
  rw [f32Value, if_neg h, f32Sign]
  split_ifs
  · rw [Rat.mkRat_eq_div]
    norm_num [neg_div]
  · rw [Rat.mkRat_eq_div]
    norm_num

theorem f32Value_eq_finite_iff {w : U32} {v : ℚ} :
    f32Value w = .finite v ↔ f32Exponent w ≠ 255 ∧ v = f32Sign w * (f32Units w / 2 ^ 149) := by
  by_cases h : f32Exponent w = 255
  · refine iff_of_false ?_ fun hfinite => hfinite.1 h
    rw [f32Value, if_pos h]
    split_ifs <;> simp
  · rw [f32Value_of_finite h, F32Value.finite.injEq, eq_comm]
    exact ⟨fun hv => ⟨h, hv⟩, fun hv => hv.2⟩

/-- Settles O37: the units of a normal and of a subnormal word, over `2^149`. -/
theorem binary32Value : Obligations.Binary32Value := by
  intro w e m sign
  have he : f32Exponent w = e := rfl
  have hm : f32Fraction w = m := rfl
  have hsign : f32Sign w = sign := f32Sign_eq w
  refine ⟨fun hpos hlt => ?_, fun hzero => ?_, fun hmax hm0 => ?_, fun hmax hm0 => ?_⟩
  · rw [f32Value_of_finite (by omega), f32Units, if_neg (by omega), he, hm, hsign, mul_assoc]
    obtain ⟨k, hk⟩ : ∃ k, e = k + 1 := ⟨e - 1, by omega⟩
    have hpow : (2 : ℚ) ^ ((e : ℤ) - 127) = 2 ^ k / 2 ^ 126 := by
      rw [hk, show ((k + 1 : Nat) : ℤ) - 127 = (k : ℤ) - (126 : Nat) by push_cast; ring, zpow_sub₀ two_ne_zero,
        zpow_natCast, zpow_natCast]
    rw [hpow, hk, Nat.add_sub_cancel]
    congr 2
    push_cast
    ring
  · rw [f32Value_of_finite (by omega), f32Units, if_pos (he.trans hzero), hm, hsign, mul_assoc]
    congr 2
    norm_num
    ring
  · rw [f32Value, if_pos (he.trans hmax), if_pos (hm.trans hm0), f32Negative_eq]
  · rw [f32Value, if_pos (he.trans hmax), if_neg (hm ▸ hm0)]

/-! ### Units -/

/-- A word below the infinity is its exponent and fraction, not negative. -/
theorem f32_fields_ofNat {c : Nat} (h : c ≤ 255 * 2 ^ 23) :
    f32Exponent (BitVec.ofNat 32 c) = c / 2 ^ 23 ∧ f32Fraction (BitVec.ofNat 32 c) = c % 2 ^ 23
      ∧ f32Sign (BitVec.ofNat 32 c) = 1 := by
  have hc : (BitVec.ofNat 32 c).toNat = c := by rw [BitVec.toNat_ofNat, Nat.mod_eq_of_lt (by omega)]
  rw [f32Exponent, f32Fraction, f32Sign_eq, hc, if_neg (by omega)]
  exact ⟨by omega, rfl, rfl⟩

/-- The significand `q` packed above scale `s`, a carry included, has `q * 2^s` units. -/
theorem f32Units_pack {s q : Nat} (hq : q ≤ 2 ^ 24) (hnormal : 0 < s → 2 ^ 23 ≤ q)
    (hfinite : s * 2 ^ 23 + q ≤ 255 * 2 ^ 23) : f32Units (BitVec.ofNat 32 (s * 2 ^ 23 + q)) = q * 2 ^ s := by
  obtain ⟨he, hm, -⟩ := f32_fields_ofNat hfinite
  rw [f32Units, he, hm]
  rcases lt_or_ge q (2 ^ 23) with hsub | hnorm
  · obtain rfl : s = 0 := by
      by_contra hs
      exact absurd (hnormal (Nat.pos_of_ne_zero hs)) (not_le.mpr hsub)
    rw [if_pos (by omega)]
    omega
  · rw [if_neg (by omega)]
    rcases hq.lt_or_eq with hlt | rfl
    · have hexp : (s * 2 ^ 23 + q) / 2 ^ 23 - 1 = s := by omega
      have hfrac : 2 ^ 23 + (s * 2 ^ 23 + q) % 2 ^ 23 = q := by omega
      rw [hexp, hfrac]
    · have hexp : (s * 2 ^ 23 + 2 ^ 24) / 2 ^ 23 - 1 = s + 1 := by omega
      have hfrac : 2 ^ 23 + (s * 2 ^ 23 + 2 ^ 24) % 2 ^ 23 = 2 ^ 23 := by omega
      rw [hexp, hfrac, pow_succ]
      ring

/-- Units of `2^(s+23)` or more are a whole number of steps of `2^s`. -/
theorem two_pow_dvd_f32Units {w : U32} {s : Nat} (h : 2 ^ (s + 23) ≤ f32Units w) : 2 ^ s ∣ f32Units w := by
  have hm : f32Fraction w < 2 ^ 23 := Nat.mod_lt _ (by positivity)
  unfold f32Units at h ⊢
  split_ifs at h ⊢ with hzero
  · have := Nat.pow_le_pow_right (n := 2) (by decide) (Nat.le_add_left 23 s)
    omega
  · have hlt : (2 ^ 23 + f32Fraction w) * 2 ^ (f32Exponent w - 1) < 2 ^ 24 * 2 ^ (f32Exponent w - 1) :=
      Nat.mul_lt_mul_of_pos_right (by omega) (by positivity)
    rw [← pow_add] at hlt
    have := (Nat.pow_lt_pow_iff_right (by decide)).mp (h.trans_lt hlt)
    exact Dvd.dvd.mul_left (pow_dvd_pow 2 (by omega)) _

/-! ### The scale of a ratio -/

theorem f32Scale_spec (num den fuel : Nat) :
    f32Scale num den fuel ≤ fuel
      ∧ (0 < f32Scale num den fuel → 2 ^ (f32Scale num den fuel + 23) * den ≤ num * 2 ^ 149)
      ∧ (f32Scale num den fuel < fuel → num * 2 ^ 149 < 2 ^ (f32Scale num den fuel + 24) * den) := by
  induction fuel with
  | zero => exact ⟨le_rfl, fun h => absurd h (lt_irrefl 0), fun h => absurd h (lt_irrefl 0)⟩
  | succ fuel ih =>
    obtain ⟨hle, hlow, hhigh⟩ := ih
    unfold f32Scale
    split_ifs with hreached
    · exact ⟨le_rfl, fun _ => decide_eq_true_iff.mp hreached, fun h => absurd h (lt_irrefl _)⟩
    · refine ⟨by omega, hlow, fun _ => ?_⟩
      rcases hle.lt_or_eq with hlt | heq
      · exact hhigh hlt
      · rw [heq]
        exact not_le.mp (mt decide_eq_true_iff.mpr hreached)

/-- The ratio in steps of its scale. -/
def f32Steps (num den : Nat) : ℚ := ((num * 2 ^ 149 : Nat) : ℚ) / (den * 2 ^ f32Scale num den 254 : Nat)

/-- The significand: the number of steps, rounded. -/
def f32Significand (num den : Nat) : Nat := divRoundHalfEven (num * 2 ^ 149) (den * 2 ^ f32Scale num den 254)

theorem f32NearestRatio_eq (num den : Nat) : f32NearestRatio num den
    = BitVec.ofNat 32 (min (255 * 2 ^ 23) (f32Scale num den 254 * 2 ^ 23 + f32Significand num den)) := rfl

section
variable {num den : Nat}

theorem f32Steps_eq (hden : 0 < den) :
    f32Steps num den = (num : ℚ) / den * (2 ^ 149 / 2 ^ f32Scale num den 254) := by
  have hden' : (den : ℚ) ≠ 0 := Nat.cast_ne_zero.mpr hden.ne'
  rw [f32Steps, Nat.cast_mul, Nat.cast_mul, Nat.cast_pow, Nat.cast_pow, Nat.cast_ofNat]
  field_simp

theorem le_f32Steps (hden : 0 < den) (hs : 0 < f32Scale num den 254) : 2 ^ 23 ≤ f32Steps num den := by
  have hlow := (f32Scale_spec num den 254).2.1 hs
  rw [f32Steps, le_div_iff₀ (by positivity)]
  calc (2 : ℚ) ^ 23 * (den * 2 ^ f32Scale num den 254 : Nat)
      = (2 ^ (f32Scale num den 254 + 23) * den : Nat) := by push_cast; ring
    _ ≤ (num * 2 ^ 149 : Nat) := by exact_mod_cast hlow

theorem f32Steps_lt (hden : 0 < den) (hs : f32Scale num den 254 < 254) : f32Steps num den < 2 ^ 24 := by
  have hhigh := (f32Scale_spec num den 254).2.2 hs
  rw [f32Steps, div_lt_iff₀ (by positivity)]
  calc ((num * 2 ^ 149 : Nat) : ℚ) < (2 ^ (f32Scale num den 254 + 24) * den : Nat) := by exact_mod_cast hhigh
    _ = 2 ^ 24 * (den * 2 ^ f32Scale num den 254 : Nat) := by push_cast; ring

theorem f32Significand_nearest (hden : 0 < den) :
    |f32Steps num den - f32Significand num den| ≤ 1 / 2
      ∧ (|f32Steps num den - f32Significand num den| = 1 / 2 → f32Significand num den % 2 = 0) :=
  divRoundHalfEven_nearest _ (by positivity)

theorem le_f32Significand (hden : 0 < den) (hs : 0 < f32Scale num den 254) : 2 ^ 23 ≤ f32Significand num den := by
  have hlow := le_f32Steps hden hs
  have hnear := (abs_le.mp (f32Significand_nearest (num := num) hden).1).2
  have hlt : ((2 ^ 23 : Nat) : ℚ) < (f32Significand num den + 1 : Nat) := by push_cast; linarith
  have := Nat.cast_lt.mp hlt
  omega

theorem f32Significand_le (hden : 0 < den) (hs : f32Scale num den 254 < 254) : f32Significand num den ≤ 2 ^ 24 := by
  have hhigh := f32Steps_lt hden hs
  have hnear := (abs_le.mp (f32Significand_nearest (num := num) hden).1).1
  have hlt : (f32Significand num den : ℚ) < (2 ^ 24 + 1 : Nat) := by push_cast; linarith
  have := Nat.cast_lt.mp hlt
  omega

/-! ### Where the rounding is finite -/

theorem f32Exponent_nearestRatio_ne (num den : Nat) : f32Exponent (f32NearestRatio num den) ≠ 255
    ↔ f32Scale num den 254 * 2 ^ 23 + f32Significand num den < 255 * 2 ^ 23 := by
  rw [f32NearestRatio_eq, (f32_fields_ofNat (min_le_left _ _)).1]
  omega

/-- In steps of the greatest finite scale the overflow bound is `2^24 - 1/2`. -/
theorem f32Steps_lt_bound_iff (hden : 0 < den) (hs : f32Scale num den 254 = 253) :
    f32Steps num den < 2 ^ 24 - 1 / 2 ↔ (num : ℚ) / den < 2 ^ 128 - 2 ^ 103 := by
  rw [f32Steps_eq hden, hs, ← lt_div_iff₀ (by positivity)]
  norm_num

theorem f32_fits_iff (hden : 0 < den) : f32Scale num den 254 * 2 ^ 23 + f32Significand num den < 255 * 2 ^ 23
    ↔ num < (2 ^ 128 - 2 ^ 103) * den := by
  have hratio : num < (2 ^ 128 - 2 ^ 103) * den ↔ (num : ℚ) / den < 2 ^ 128 - 2 ^ 103 := by
    rw [div_lt_iff₀ (by positivity), ← Nat.cast_lt (α := ℚ)]
    norm_num
  obtain ⟨hle, hlow, hhigh⟩ := f32Scale_spec num den 254
  obtain ⟨hnear, htie⟩ := f32Significand_nearest (num := num) hden
  rw [hratio]
  rcases lt_trichotomy (f32Scale num den 254) 253 with hs | hs | hs
  · have hq := f32Significand_le hden (num := num) (by omega)
    refine iff_of_true (by omega) ?_
    have hsteps := f32Steps_lt hden (num := num) (by omega)
    rw [f32Steps_eq hden, ← lt_div_iff₀ (by positivity)] at hsteps
    calc (num : ℚ) / den < 2 ^ 24 / (2 ^ 149 / 2 ^ f32Scale num den 254) := hsteps
      _ ≤ 2 ^ 24 / (2 ^ 149 / 2 ^ 252) := by
        gcongr
        · exact one_le_two
        · omega
      _ < 2 ^ 128 - 2 ^ 103 := by norm_num
  · rw [← f32Steps_lt_bound_iff hden hs, hs]
    obtain ⟨hdown, hup⟩ := abs_le.mp hnear
    constructor
    · intro hfits
      have hq : f32Significand num den ≤ 2 ^ 24 - 1 := by omega
      have hq' : (f32Significand num den : ℚ) ≤ 2 ^ 24 - 1 := by
        have := Nat.cast_le (α := ℚ).mpr hq
        norm_num at this ⊢
        exact this
      refine lt_of_le_of_ne (by linarith) fun heq => ?_
      have hlast : (f32Significand num den : ℚ) = (2 ^ 24 - 1 : Nat) := by
        push_cast
        linarith
      have hodd := Nat.cast_injective hlast
      have := htie (by rw [heq, hlast]; norm_num)
      omega
    · intro hbound
      have hlt : (f32Significand num den : ℚ) < (2 ^ 24 : Nat) := by push_cast; linarith
      have := Nat.cast_lt.mp hlt
      omega
  · have hmax : f32Scale num den 254 = 254 := by omega
    have hq := le_f32Significand hden (num := num) (by omega)
    refine iff_of_false (by omega) (not_lt.mpr ?_)
    have hsteps := le_f32Steps hden (num := num) (by omega)
    rw [f32Steps_eq hden, hmax, ← div_le_iff₀ (by positivity)] at hsteps
    norm_num at hsteps ⊢
    linarith

/-! ### No finite word is nearer -/

/-- The steps that the finite words below a scale lie on: whole ones, or ones below every value that has the scale. -/
theorem f32Units_steps (hden : 0 < den) (w : U32) {σ : ℚ} (hσ : σ = 1 ∨ σ = -1) :
    (∃ k : Int, σ * f32Units w / 2 ^ f32Scale num den 254 = k)
      ∨ (σ * f32Units w / 2 ^ f32Scale num den 254 < 2 ^ 23 ∧ 2 ^ 23 ≤ f32Steps num den) := by
  generalize hs : f32Scale num den 254 = s
  have hpow : (0 : ℚ) < 2 ^ s := by positivity
  by_cases hdvd : 2 ^ s ∣ f32Units w
  · obtain ⟨k, hk⟩ := hdvd
    have hwhole : (f32Units w : ℚ) / 2 ^ s = k := by
      rw [hk]
      push_cast
      field_simp
    refine .inl ?_
    obtain rfl | rfl := hσ
    · exact ⟨k, by rw [one_mul, hwhole]; rfl⟩
    · exact ⟨-k, by rw [neg_one_mul, neg_div, hwhole]; push_cast; rfl⟩
  · have hsmall : f32Units w < 2 ^ (s + 23) := not_le.mp (mt two_pow_dvd_f32Units hdvd)
    have hpos : 0 < s := by
      rcases Nat.eq_zero_or_pos s with rfl | h
      · exact absurd (one_dvd _) hdvd
      · exact h
    have hunits : (f32Units w : ℚ) < 2 ^ 23 * 2 ^ s := by
      rw [← pow_add, Nat.add_comm 23 s]
      exact_mod_cast hsmall
    refine .inr ⟨(div_lt_iff₀ hpow).mpr (lt_of_le_of_lt ?_ hunits), le_f32Steps hden (by omega)⟩
    have hnonneg : (0 : ℚ) ≤ f32Units w := Nat.cast_nonneg _
    obtain rfl | rfl := hσ <;> linarith

/-- A whole number at most one half from `r` is nearest among whole numbers, and the tie is with its neighbour. -/
theorem nearest_of_abs_le_half {r : ℚ} {q k : Int} (h : |r - q| ≤ 1 / 2) :
    |r - q| ≤ |r - k| ∧ (|r - q| = |r - k| → k ≠ q → |r - q| = 1 / 2) := by
  rcases eq_or_ne k q with rfl | hne
  · exact ⟨le_rfl, fun _ hne => absurd rfl hne⟩
  · have hone : (1 : ℚ) ≤ |(k : ℚ) - q| := by exact_mod_cast Int.one_le_abs (sub_ne_zero.mpr hne)
    have htriangle : |(k : ℚ) - q| ≤ |r - q| + |r - k| := by
      rw [show (k : ℚ) - q = (r - q) - (r - k) by ring]
      exact abs_sub _ _
    exact ⟨by linarith, fun heq _ => by linarith⟩

/-- Of the steps of finite words none is nearer to the ratio than the significand, and at a tie that is even. -/
theorem f32Significand_nearest_step (hden : 0 < den) {t : ℚ}
    (ht : (∃ k : Int, t = k) ∨ (t < 2 ^ 23 ∧ 2 ^ 23 ≤ f32Steps num den)) :
    |f32Steps num den - f32Significand num den| ≤ |f32Steps num den - t|
      ∧ (|f32Steps num den - f32Significand num den| = |f32Steps num den - t| → t ≠ f32Significand num den →
        f32Significand num den % 2 = 0) := by
  obtain ⟨hhalf, heven⟩ := f32Significand_nearest (num := num) hden
  have hwhole (k : Int) := nearest_of_abs_le_half (r := f32Steps num den) (q := f32Significand num den) (k := k) hhalf
  obtain ⟨k, rfl⟩ | ⟨hlow, hhigh⟩ := ht
  · obtain ⟨hle, htie⟩ := hwhole k
    exact ⟨hle, fun heq hne => heven (htie heq (by exact_mod_cast hne))⟩
  · have hle := (hwhole (2 ^ 23)).1
    have hlt : |f32Steps num den - (2 ^ 23 : Int)| < |f32Steps num den - t| := by
      push_cast
      rw [abs_of_nonneg (by linarith), abs_of_nonneg (by linarith)]
      linarith
    have hstrict := hle.trans_lt hlt
    exact ⟨hstrict.le, fun heq => absurd heq hstrict.ne⟩

/-- The value that is packed, in steps. -/
theorem f32Units_nearestRatio (hden : 0 < den) (h : f32Exponent (f32NearestRatio num den) ≠ 255) :
    f32Units (f32NearestRatio num den) = f32Significand num den * 2 ^ f32Scale num den 254
      ∧ f32Sign (f32NearestRatio num den) = 1
      ∧ (f32NearestRatio num den).toNat % 2 = f32Significand num den % 2 := by
  have hfits := (f32Exponent_nearestRatio_ne num den).mp h
  have hscale : f32Scale num den 254 < 254 := by
    by_contra hs
    have := le_f32Significand (num := num) hden (by omega)
    omega
  rw [f32NearestRatio_eq, min_eq_right hfits.le]
  refine ⟨f32Units_pack (f32Significand_le hden hscale) (le_f32Significand hden) hfits.le,
    (f32_fields_ofNat hfits.le).2.2, ?_⟩
  rw [BitVec.toNat_ofNat]
  omega

/-- No finite word, with either sign, is nearer to a ratio than the one it rounds to, and at a tie that is the even one. -/
theorem f32NearestRatio_nearest (hden : 0 < den) (h : f32Exponent (f32NearestRatio num den) ≠ 255) (w : U32) {σ : ℚ}
    (hσ : σ = 1 ∨ σ = -1) :
    |(num : ℚ) / den - f32Units (f32NearestRatio num den) / 2 ^ 149| ≤ |(num : ℚ) / den - σ * (f32Units w / 2 ^ 149)|
      ∧ (|(num : ℚ) / den - f32Units (f32NearestRatio num den) / 2 ^ 149|
          = |(num : ℚ) / den - σ * (f32Units w / 2 ^ 149)| →
        σ * (f32Units w / 2 ^ 149) ≠ f32Units (f32NearestRatio num den) / 2 ^ 149 →
          (f32NearestRatio num den).toNat % 2 = 0) := by
  obtain ⟨hunits, -, heven⟩ := f32Units_nearestRatio hden h
  have hc : (0 : ℚ) < 2 ^ f32Scale num den 254 / 2 ^ 149 := by positivity
  have hratio : (num : ℚ) / den = f32Steps num den * (2 ^ f32Scale num den 254 / 2 ^ 149) := by
    rw [f32Steps_eq hden]
    field_simp
  have hresult : (f32Units (f32NearestRatio num den) : ℚ) / 2 ^ 149
      = f32Significand num den * (2 ^ f32Scale num den 254 / 2 ^ 149) := by
    rw [hunits]
    push_cast
    ring
  have hother : σ * (f32Units w / 2 ^ 149)
      = σ * f32Units w / 2 ^ f32Scale num den 254 * (2 ^ f32Scale num den 254 / 2 ^ 149) := by
    field_simp
  obtain ⟨hle, htie⟩ := f32Significand_nearest_step hden (f32Units_steps (num := num) hden w hσ)
  rw [hratio, hresult, hother, ← sub_mul, ← sub_mul, abs_mul, abs_mul, mul_le_mul_iff_left₀ (abs_pos.mpr hc.ne'),
    mul_left_inj' (abs_pos.mpr hc.ne').ne', Ne, mul_left_inj' hc.ne', heven]
  exact ⟨hle, htie⟩

/-- The finite results, as the obligation asks for them. -/
theorem f32NearestRatio_finite_iff (hden : 0 < den) :
    (∃ v, f32Value (f32NearestRatio num den) = .finite v) ↔ num < (2 ^ 128 - 2 ^ 103) * den := by
  rw [← f32_fits_iff hden, ← f32Exponent_nearestRatio_ne]
  exact ⟨fun ⟨v, hv⟩ => (f32Value_eq_finite_iff.mp hv).1, fun h => ⟨_, f32Value_of_finite h⟩⟩

end

/-! ### Either sign -/

/-- A word below the infinity with its sign bit set. -/
theorem f32_fields_setSign {c : Nat} (h : c ≤ 255 * 2 ^ 23) :
    f32Exponent (0x80000000#32 ||| BitVec.ofNat 32 c) = f32Exponent (BitVec.ofNat 32 c)
      ∧ f32Units (0x80000000#32 ||| BitVec.ofNat 32 c) = f32Units (BitVec.ofNat 32 c)
      ∧ f32Sign (0x80000000#32 ||| BitVec.ofNat 32 c) = -1
      ∧ (0x80000000#32 ||| BitVec.ofNat 32 c).toNat % 2 = (BitVec.ofNat 32 c).toNat % 2 := by
  have hc : (BitVec.ofNat 32 c).toNat = c := by rw [BitVec.toNat_ofNat, Nat.mod_eq_of_lt (by omega)]
  have hset : (0x80000000#32 ||| BitVec.ofNat 32 c).toNat = 2 ^ 31 + c := by
    rw [BitVec.toNat_or, hc]
    exact (Nat.two_pow_add_eq_or_of_lt (i := 31) (by omega) 1).symm
  have hexp : f32Exponent (0x80000000#32 ||| BitVec.ofNat 32 c) = f32Exponent (BitVec.ofNat 32 c) := by
    rw [f32Exponent, f32Exponent, hset, hc]
    omega
  have hfrac : f32Fraction (0x80000000#32 ||| BitVec.ofNat 32 c) = f32Fraction (BitVec.ofNat 32 c) := by
    rw [f32Fraction, f32Fraction, hset, hc]
    omega
  refine ⟨hexp, by rw [f32Units, f32Units, hexp, hfrac], ?_, by rw [hset, hc]; omega⟩
  rw [f32Sign_eq, hset, if_pos (by omega)]

/-- The sign of a rational, +1 for 0. -/
def ratSign (x : ℚ) : ℚ := if x.num < 0 then -1 else 1

theorem ratSign_cases (x : ℚ) : ratSign x = 1 ∨ ratSign x = -1 := by
  unfold ratSign
  split_ifs
  · exact .inr rfl
  · exact .inl rfl

theorem abs_eq_natAbs_div (x : ℚ) : |x| = (x.num.natAbs : ℚ) / x.den := by
  rw [Rat.abs_def, Rat.divInt_eq_div, Int.cast_natCast, Int.cast_natCast]

theorem ratSign_mul_abs (x : ℚ) : ratSign x * |x| = x := by
  unfold ratSign
  split_ifs with h
  · rw [abs_of_neg (Rat.num_neg.mp h), neg_one_mul, neg_neg]
  · rw [abs_of_nonneg (Rat.num_nonneg.mp (not_lt.mp h)), one_mul]

/-- A sign moves across a distance. -/
theorem abs_sign_mul_sub {σ : ℚ} (hσ : σ = 1 ∨ σ = -1) (y z : ℚ) : |σ * y - z| = |y - σ * z| := by
  obtain rfl | rfl := hσ
  · rw [one_mul, one_mul]
  · rw [← abs_neg]
    congr 1
    ring

/-- `f32Nearest` is the rounding of the magnitude, with the sign of the value. -/
theorem f32Nearest_fields (x : ℚ) :
    f32Exponent (f32Nearest x) = f32Exponent (f32NearestRatio x.num.natAbs x.den)
      ∧ f32Units (f32Nearest x) = f32Units (f32NearestRatio x.num.natAbs x.den)
      ∧ f32Sign (f32Nearest x) = ratSign x
      ∧ (f32Nearest x).toNat % 2 = (f32NearestRatio x.num.natAbs x.den).toNat % 2 := by
  unfold f32Nearest ratSign
  rw [f32NearestRatio_eq]
  split_ifs
  · exact f32_fields_setSign (min_le_left _ _)
  · exact ⟨rfl, rfl, (f32_fields_ofNat (min_le_left _ _)).2.2, rfl⟩

theorem f32Nearest_finite_iff (x : ℚ) : (∃ v, f32Value (f32Nearest x) = .finite v) ↔ |x| < 2 ^ 128 - 2 ^ 103 := by
  have hexp := (f32Nearest_fields x).1
  have hbound : |x| < 2 ^ 128 - 2 ^ 103 ↔ x.num.natAbs < (2 ^ 128 - 2 ^ 103) * x.den := by
    rw [abs_eq_natAbs_div, div_lt_iff₀ (by exact_mod_cast x.den_pos), ← Nat.cast_lt (α := ℚ)]
    norm_num
  rw [hbound, ← f32NearestRatio_finite_iff x.den_pos]
  simp only [f32Value_eq_finite_iff, hexp, exists_and_left, exists_eq, and_true]

/-- Settles O38: for a ratio the finite words lie on its steps or below its scale; a negative value is a ratio with its sign
moved to the other word. -/
theorem nearestBinary32 : Obligations.NearestBinary32 := by
  refine ⟨fun num den hden => ⟨f32NearestRatio_finite_iff hden, fun v u w hv hu => ?_⟩,
    fun x => ⟨f32Nearest_finite_iff x, fun v u w hv hu => ?_⟩⟩
  · obtain ⟨hfinite, rfl⟩ := f32Value_eq_finite_iff.mp hv
    obtain ⟨-, rfl⟩ := f32Value_eq_finite_iff.mp hu
    obtain ⟨-, hsign, -⟩ := f32Units_nearestRatio hden hfinite
    rw [hsign, one_mul]
    exact f32NearestRatio_nearest hden hfinite w (f32Sign_cases w)
  · obtain ⟨hfinite, rfl⟩ := f32Value_eq_finite_iff.mp hv
    obtain ⟨-, rfl⟩ := f32Value_eq_finite_iff.mp hu
    obtain ⟨hexp, hunits, hsign, heven⟩ := f32Nearest_fields x
    rw [hexp] at hfinite
    have hσ := ratSign_cases x
    have hsquare : ratSign x * ratSign x = 1 := by obtain h | h := hσ <;> rw [h] <;> norm_num
    have hστ : ratSign x * f32Sign w = 1 ∨ ratSign x * f32Sign w = -1 := by
      obtain h | h := hσ <;> obtain h' | h' := f32Sign_cases w <;> rw [h, h'] <;> norm_num
    obtain ⟨hle, htie⟩ := f32NearestRatio_nearest x.den_pos hfinite w hστ
    rw [← abs_eq_natAbs_div, mul_assoc] at hle htie
    have hdist (z : ℚ) : |x - z| = |(|x|) - ratSign x * z| := by
      rw [← abs_sign_mul_sub hσ, ratSign_mul_abs]
    rw [hdist, hdist, hsign, hunits, heven, ← mul_assoc (ratSign x) (ratSign x), hsquare, one_mul]
    refine ⟨hle, fun heq hne => htie heq fun h => hne ?_⟩
    rw [← h, ← mul_assoc (ratSign x) (ratSign x), hsquare, one_mul]

/-! ### The measures of DEM -/

/-- Settles O51: the count is never half-way, and the payload of a Gap holds the rounding of a ratio below the overflow
bound. -/
theorem gapAndCarrierMeasures : Obligations.GapAndCarrierMeasures := by
  refine ⟨carrierCycles_nearest, fun k hk => ⟨_, rfl, leBytes_length _ _, ?_⟩⟩
  have hden : 0 < 2 * rDem := by decide
  have hfinite : k < (2 ^ 128 - 2 ^ 103) * (2 * rDem) := by
    rw [rDem]
    omega
  obtain ⟨v, hv⟩ := (f32NearestRatio_finite_iff hden).mpr hfinite
  have hratio : (k : ℚ) / 2 / 44100 = (k : ℚ) / (2 * rDem : Nat) := by
    rw [div_div, rDem]
    norm_num
  rw [f32At0_leBytes, hratio]
  exact ⟨v, hv, fun w u hu => (nearestBinary32.1 k _ hden).2 v u w hv hu⟩

end Sys2Proof.Machine
end

section
/-! What DEM reads of the cycles that MOD writes (R140, R142, R147, R148): in a stream of canonical slow and fast cycles each cycle
is one negative and one positive pulse, and the cursor moves from cycle to cycle, past the zero that begins the next one. -/

namespace Sys2Proof.Machine

open Sys2Proof.Statement

/-! ### A pulse that stands at the cursor -/

theorem prefixLength_append {p : Sample → Bool} {xs : List Sample} (hxs : ∀ x ∈ xs, p x = true) (ys : List Sample) :
    prefixLength p (xs ++ ys) = xs.length + prefixLength p ys := by
  rw [prefixLength_eq_length_takeWhile, prefixLength_eq_length_takeWhile, List.takeWhile_append_of_pos hxs,
    List.length_append]

theorem prefixLength_eq_zero {p : Sample → Bool} {ys : List Sample} (hys : ∀ y, ys.head? = some y → p y = false) :
    prefixLength p ys = 0 := by
  cases ys with
  | nil => rfl
  | cons y ys => rw [prefixLength, hys y rfl]; rfl

/-- Zeros, a run of one sign, and what does not continue the run are read as that pulse (R140). -/
theorem readPulse_of_drop {ib run rest : List Sample} {p z : Nat} {g : Int}
    (hdrop : ib.drop p = List.replicate z 0 ++ (run ++ rest)) (hne : run ≠ []) (hg : g ≠ 0)
    (hrun : ∀ x ∈ run, x.sign = g) (hrest : ∀ x, rest.head? = some x → x.sign ≠ g) :
    readPulse ib p = .pulse g (z + run.length + if rest.head? = some 0 then 1 else 0)
      (p + (z + run.length + if rest.head? = some 0 then 1 else 0)) := by
  obtain ⟨x, run', rfl⟩ := List.exists_cons_of_ne_nil hne
  have hx : x.sign = g := hrun x (by simp)
  have hx0 : x ≠ 0 := by rintro rfl; exact hg hx.symm
  have hskip : skipZeros ib p = p + z := by
    rw [skipZeros, hdrop, prefixLength_append (by simp), List.length_replicate, prefixLength_eq_zero (by simpa using hx0)]
    rfl
  have hdropZeros : ib.drop (p + z) = x :: run' ++ rest := by
    rw [← List.drop_drop, hdrop, List.drop_left' List.length_replicate]
  have hfirst : ib[p + z]? = some x := by rw [← List.head?_drop, hdropZeros]; rfl
  have hconsume : consumeSign ib g (p + z) = p + z + (x :: run').length := by
    rw [consumeSign, hdropZeros, prefixLength_append (by simpa using hrun),
      prefixLength_eq_zero (by simpa using hrest)]
    rfl
  have hdropRun : ib.drop (p + z + (x :: run').length) = rest := by
    rw [← List.drop_drop, hdropZeros, List.drop_left]
  simp only [readPulse, hskip, hfirst, hx, hconsume, consumeTerminator_eq, hdropRun, PulseResult.pulse.injEq, true_and]
  omega

/-! ### The canonical cycles -/

/-- A fast or a slow cycle at 44100 Hz, 1200 Hz and phase 180 (R131). -/
def canonicalCycle (depth : Depth) (fast : Bool) : List Sample :=
  cycleSamples (amplitude depth) 180 (if fast then 18 else 37)

/-- The length of the negative pulse, with the zero between the pulses of a fast cycle but not the one before them. -/
def lowLength (fast : Bool) : Nat := if fast then 9 else 18

/-- The number of positive samples. -/
def highLength (fast : Bool) : Nat := if fast then 8 else 18

/-- A zero, the negative samples, a zero in a fast cycle, and the positive samples (R131, R132). -/
theorem canonicalCycle_shape (depth : Depth) (fast : Bool) :
    ∃ neg mid pos : List Sample, canonicalCycle depth fast = 0 :: (neg ++ (mid ++ pos))
      ∧ neg.length + mid.length = lowLength fast ∧ pos.length = highLength fast ∧ neg ≠ [] ∧ pos ≠ []
      ∧ (mid = [] ∨ mid = [0]) ∧ (∀ x ∈ neg, x.sign = -1) ∧ ∀ x ∈ pos, x.sign = 1 := by
  obtain ⟨-, -, -, -, hfast16, hslow16, hfast8, hslow8⟩ := canonicalCycles
  refine ⟨(canonicalCycle depth fast).tail.take (if fast then 8 else 18), if fast then [0] else [],
    (canonicalCycle depth fast).drop (if fast then 10 else 19), ?_⟩
  cases depth <;> cases fast
  · rw [show canonicalCycle .d8 false = _ from hslow8]
    decide
  · rw [show canonicalCycle .d8 true = _ from hfast8]
    decide
  · rw [show canonicalCycle .d16 false = _ from hslow16]
    decide
  · rw [show canonicalCycle .d16 true = _ from hfast16]
    decide

/-- The samples of a row of cycles. -/
def wave (depth : Depth) (cycles : List Bool) : List Sample := cycles.flatMap (canonicalCycle depth)

theorem wave_cons (depth : Depth) (fast : Bool) (cycles : List Bool) :
    wave depth (fast :: cycles) = canonicalCycle depth fast ++ wave depth cycles := List.flatMap_cons

theorem wave_append (depth : Depth) (cycles cycles' : List Bool) :
    wave depth (cycles ++ cycles') = wave depth cycles ++ wave depth cycles' := List.flatMap_append

theorem inRange_of_mem_wave {depth : Depth} {cycles : List Bool} {x : Sample} (h : x ∈ wave depth cycles) :
    inRange depth x := by
  obtain ⟨fast, -, hx⟩ := List.mem_flatMap.mp h
  exact mem_cycleSamples hx

/-- The zero that a following cycle begins with. -/
def nextZero (cycles : List Bool) : Nat := if cycles = [] then 0 else 1

theorem nextZero_le (cycles : List Bool) : nextZero cycles ≤ 1 := by
  unfold nextZero
  split_ifs <;> decide

theorem nextZero_of_ne_nil {cycles : List Bool} (h : cycles ≠ []) : nextZero cycles = 1 := if_neg h

/-- A row of cycles is empty or begins with a zero, which a pulse before it ends with. -/
theorem wave_head (depth : Depth) (cycles : List Bool) :
    (∀ x, (wave depth cycles).head? = some x → x.sign ≠ 1)
      ∧ (if (wave depth cycles).head? = some 0 then 1 else 0) = nextZero cycles
      ∧ (wave depth cycles).drop (nextZero cycles) = (wave depth cycles).tail := by
  cases cycles with
  | nil => simp [wave, nextZero]
  | cons fast cycles =>
    obtain ⟨neg, mid, pos, hshape, -⟩ := canonicalCycle_shape depth fast
    rw [wave_cons, hshape, nextZero_of_ne_nil (by simp)]
    simp

/-! ### A cycle that stands at the cursor -/

/-- The cursor stands at the first of a row of cycles that ends the buffer, past its zero (`zeros = 0`) or on it. -/
def OnCycles (depth : Depth) (ib : List Sample) (p zeros : Nat) (cycles : List Bool) : Prop :=
  ib.drop p = List.replicate zeros 0 ++ (wave depth cycles).tail

section
variable {depth : Depth} {ib : List Sample} {p z : Nat} {cycles : List Bool}

/-- At the start of a buffer of cycles the cursor stands on the zero of the first one. -/
theorem onCycles_wave (depth : Depth) (fast : Bool) (cycles : List Bool) :
    OnCycles depth (wave depth (fast :: cycles)) 0 1 (fast :: cycles) := by
  obtain ⟨neg, mid, pos, hshape, -⟩ := canonicalCycle_shape depth fast
  rw [OnCycles, wave_cons, hshape]
  rfl

/-- The cursor after the first cycle. -/
def cycleEnd (p z : Nat) (fast : Bool) (cycles : List Bool) : Nat :=
  p + (z + lowLength fast) + (highLength fast + nextZero cycles)

/-- The first cycle is a negative and a positive pulse (R140), and the cursor then stands at the next cycle. -/
theorem OnCycles.pulses {fast : Bool} (h : OnCycles depth ib p z (fast :: cycles)) :
    readPulse ib p = .pulse (-1) (z + lowLength fast) (p + (z + lowLength fast))
      ∧ readPulse ib (p + (z + lowLength fast))
        = .pulse 1 (highLength fast + nextZero cycles) (cycleEnd p z fast cycles)
      ∧ OnCycles depth ib (cycleEnd p z fast cycles) 0 cycles := by
  obtain ⟨neg, mid, pos, hshape, hlow, hhigh, hneg, hpos, hmid, hnegSign, hposSign⟩ := canonicalCycle_shape depth fast
  obtain ⟨hhead, hzero, htail⟩ := wave_head depth cycles
  have hrow : (wave depth (fast :: cycles)).tail = neg ++ (mid ++ (pos ++ wave depth cycles)) := by
    rw [wave_cons, hshape]
    simp
  rw [OnCycles, hrow] at h
  have hmidHead : (∀ x, (mid ++ (pos ++ wave depth cycles)).head? = some x → x.sign ≠ -1)
      ∧ (if (mid ++ (pos ++ wave depth cycles)).head? = some 0 then 1 else 0) = mid.length := by
    obtain ⟨x, pos', rfl⟩ := List.exists_cons_of_ne_nil hpos
    have hx : 0 < x := Int.sign_eq_one_iff_pos.mp (hposSign x (by simp))
    obtain rfl | rfl := hmid <;> simp [hx.le, hx.ne']
  have hfirst := readPulse_of_drop h hneg (by decide) hnegSign hmidHead.1
  rw [hmidHead.2, Nat.add_assoc, hlow] at hfirst
  have hdropLow : ib.drop (p + (z + lowLength fast)) = List.replicate 0 0 ++ (pos ++ wave depth cycles) := by
    rw [← List.drop_drop, h, ← hlow, ← List.append_assoc, ← List.append_assoc]
    exact List.drop_left' (by simp)
  have hsecond := readPulse_of_drop hdropLow hpos (by decide) hposSign hhead
  rw [hzero, Nat.zero_add, hhigh] at hsecond
  refine ⟨hfirst, hsecond, ?_⟩
  rw [OnCycles, cycleEnd, ← List.drop_drop, hdropLow, ← List.drop_drop, ← hhigh]
  simpa using htail

theorem OnCycles.classify {fast : Bool} (h : OnCycles depth ib p z (fast :: cycles)) (f : Nat) :
    classifyCycle ib p f = checkCycle f (-1) (z + lowLength fast) 1 (highLength fast + nextZero cycles)
      (cycleEnd p z fast cycles) := by
  obtain ⟨hfirst, hsecond, -⟩ := h.pulses
  exact classifyCycle_pulses hfirst hsecond f

theorem OnCycles.next {fast : Bool} (h : OnCycles depth ib p z (fast :: cycles)) :
    OnCycles depth ib (cycleEnd p z fast cycles) 0 cycles := h.pulses.2.2

theorem OnCycles.classify_nil (h : OnCycles depth ib p 0 []) (f : Nat) : classifyCycle ib p f = .endOfStream := by
  have hnil : ib.drop p = [] := h
  have hend : readPulse ib p = .endOfStream := (readPulse_endOfStream_iff ib p).mpr (by rw [hnil]; simp)
  simp only [classifyCycle, hend]

/-- A fast cycle is 17 to 19 samples from the cursor on, and a slow one 36 to 38 (R147). -/
theorem OnCycles.fast (h : OnCycles depth ib p z (true :: cycles)) (hz : z ≤ 1) :
    (∃ l1 l2, classifyCycle ib p 2400 = .ok l1 l2 (cycleEnd p z true cycles))
      ∧ classifyCycle ib p 1200 = .frequencyMismatch := by
  have hzero := nextZero_le cycles
  have hok : classifyCycle ib p 2400 = .ok _ _ _ := (h.classify 2400).trans
    ((acceptanceWindows (-1) 1 _ _ _ (by decide) (by simp only [lowLength, highLength, if_true]; omega)).1.mpr
      (by simp only [lowLength, highLength, if_true]; omega))
  exact ⟨⟨_, _, hok⟩, classifyCycle_slow_of_fast hok⟩

theorem OnCycles.slow (h : OnCycles depth ib p z (false :: cycles)) (hz : z ≤ 1) :
    (∃ l1 l2, classifyCycle ib p 1200 = .ok l1 l2 (cycleEnd p z false cycles))
      ∧ classifyCycle ib p 2400 = .frequencyMismatch := by
  have hzero := nextZero_le cycles
  have hlow : lowLength false = 18 := rfl
  have hhigh : highLength false = 18 := rfl
  have hratio : 5 * max (z + lowLength false) (highLength false + nextZero cycles)
      ≤ 8 * min (z + lowLength false) (highLength false + nextZero cycles) := by omega
  have hok : classifyCycle ib p 1200 = .ok _ _ _ := (h.classify 1200).trans
    ((acceptanceWindows (-1) 1 _ _ _ (by decide) hratio).2.mpr (by omega))
  refine ⟨⟨_, _, hok⟩, ?_⟩
  rw [(h.classify 2400), checkCycle_of_phase_ratio (by decide) (not_lt.mpr hratio), if_pos]
  exact lt_abs.mpr (.inr (by push_cast; omega))

/-! ### Bits -/

/-- The cycles of a bit (R161). -/
def bitCycles (b : Bool) : List Bool := if b then [true, true] else [false]

/-- Two fast cycles are a stop bit, and a 1 (R148). -/
theorem OnCycles.readStop (h : OnCycles depth ib p 0 (true :: true :: cycles)) :
    ∃ next, readStop ib p = .stop next ∧ OnCycles depth ib next 0 cycles := by
  obtain ⟨⟨l1, l2, hfirst⟩, -⟩ := h.fast (Nat.zero_le _)
  have hnext := h.next
  obtain ⟨⟨m1, m2, hsecond⟩, -⟩ := hnext.fast (Nat.zero_le _)
  refine ⟨_, ?_, hnext.next⟩
  simp only [Machine.readStop, fFast, hfirst, hsecond]

theorem OnCycles.readBit {b : Bool} (h : OnCycles depth ib p 0 (bitCycles b ++ cycles)) :
    ∃ next, readBit ib p = .bit b next ∧ OnCycles depth ib next 0 cycles := by
  cases b with
  | false =>
    have h : OnCycles depth ib p 0 (false :: cycles) := h
    obtain ⟨⟨l1, l2, hslow⟩, -⟩ := h.slow (Nat.zero_le _)
    exact ⟨_, by simp only [Machine.readBit, fSlow, hslow], h.next⟩
  | true =>
    have h : OnCycles depth ib p 0 (true :: true :: cycles) := h
    obtain ⟨next, hstop, hnext⟩ := h.readStop
    exact ⟨next, by simp only [Machine.readBit, fSlow, (h.fast (Nat.zero_le _)).2, readOne, hstop], hnext⟩

end

end Sys2Proof.Machine
end

section
/-! DEM over a framed byte, alone or behind a carrier (R210 to R221, R226): the steps of each mode over the cycles at the cursor,
one after another, and the chunks that are left when the buffer ends. -/

namespace Sys2Proof.Machine

open Sys2Proof.Statement

/-! ### Runs of steps -/

/-- DEM steps lead from `d` to `d'`. -/
def Reaches (ib : List Sample) (d d' : Demodulator) : Prop := ∃ k, (demStep ib)^[k] d = d'

theorem Reaches.refl (ib : List Sample) (d : Demodulator) : Reaches ib d d := ⟨0, rfl⟩

theorem Reaches.of_step {ib : List Sample} {d d' d'' : Demodulator} (hstep : demStep ib d = d')
    (h : Reaches ib d' d'') : Reaches ib d d'' := by
  obtain ⟨k, hk⟩ := h
  exact ⟨k + 1, by rw [Function.iterate_succ_apply, hstep, hk]⟩

theorem Reaches.trans {ib : List Sample} {d d' d'' : Demodulator} (h : Reaches ib d d') (h' : Reaches ib d' d'') :
    Reaches ib d d'' := by
  obtain ⟨k, rfl⟩ := h
  obtain ⟨j, rfl⟩ := h'
  exact ⟨j + k, Function.iterate_add_apply _ _ _ _⟩

theorem iterate_demStep_done {ib : List Sample} {d : Demodulator} (h : d.mode = .done) (k : Nat) :
    (demStep ib)^[k] d = d := Function.iterate_fixed (demStep_done ib d h) k

theorem runDem_eq_iterate (ib : List Sample) (fuel : Nat) (d : Demodulator) :
    runDem ib fuel d = (demStep ib)^[fuel] d := by
  induction fuel generalizing d with
  | zero => rfl
  | succ fuel ih =>
    rw [runDem, Function.iterate_succ_apply]
    split_ifs with hruns
    · exact ih _
    · have hdone : d.mode = .done := not_not.mp (mt (runs_eq_true_iff d).mpr hruns)
      rw [demStep_done ib d hdone, iterate_demStep_done hdone]

/-- The one `Done` state that the reset state leads to is where `demodulate` ends. -/
theorem demFinal_eq_of_reaches {ib : List Sample} {d : Demodulator} (h : Reaches ib Demodulator.reset d)
    (hdone : d.mode = .done) : demFinal ib = d := by
  obtain ⟨k, rfl⟩ := h
  have hfinal := (demFinal_done ib).1
  rw [demFinal, runDem_eq_iterate] at hfinal ⊢
  calc (demStep ib)^[demFuel ib.length] Demodulator.reset
      = (demStep ib)^[k] ((demStep ib)^[demFuel ib.length] Demodulator.reset) := (iterate_demStep_done hfinal k).symm
    _ = (demStep ib)^[demFuel ib.length] ((demStep ib)^[k] Demodulator.reset) := by
      rw [← Function.iterate_add_apply, Nat.add_comm, Function.iterate_add_apply]
    _ = (demStep ib)^[k] Demodulator.reset := iterate_demStep_done hdone _

/-! ### The eight bits of a byte -/

section
variable {depth : Depth} {ib : List Sample} {d : Demodulator} {z : Nat} {cycles : List Bool}

/-- The accumulator after more bits, the next one having the index `i` (R217). -/
def accumulate (acc : Byte) (i : Nat) : List Bool → Byte
  | [] => acc
  | b :: bs => accumulate (acc + (if b then 1#8 <<< i else 0#8)) (i + 1) bs

/-- The data bits of a byte, least significant first, make that byte. -/
theorem accumulate_dataBits : ∀ v : Byte, accumulate 0 0 (dataBits v 8) = v := by decide +kernel

/-- The rest of a byte is read and completed (R217, R218). -/
theorem reaches_completeByte (bs : List Bool) (hmode : d.mode = .byte) (hne : bs ≠ []) (hidx : d.bitIdx + bs.length = 8)
    (h : OnCycles depth ib d.pos 0 (bs.flatMap bitCycles ++ cycles)) :
    ∃ p, Reaches ib d (Demodulator.completeByte { d with acc := accumulate d.acc d.bitIdx bs, bitIdx := 8, pos := p })
      ∧ OnCycles depth ib p 0 cycles := by
  induction bs generalizing d with
  | nil => exact absurd rfl hne
  | cons b bs ih =>
    rw [List.flatMap_cons, List.append_assoc] at h
    obtain ⟨next, hread, hnext⟩ := h.readBit
    have hstep : demStep ib d
        = if d.bitIdx + 1 = 8 then (d.takeBit b next).completeByte else d.takeBit b next := by
      rw [demStep_byte ib hmode, byteStep, hread]
    rw [List.length_cons] at hidx
    cases bs with
    | nil =>
      have h7 : d.bitIdx + 1 = 8 := by simpa using hidx
      rw [if_pos h7] at hstep
      refine ⟨next, .of_step hstep ?_, hnext⟩
      rw [Demodulator.takeBit, h7]
      exact .refl _ _
    | cons b' bs =>
      rw [List.length_cons] at hidx
      rw [if_neg (by omega)] at hstep
      obtain ⟨p, hreach, hp⟩ := ih (d := d.takeBit b next) hmode (by simp)
        (by rw [Demodulator.takeBit_bitIdx, List.length_cons]; omega) hnext
      exact ⟨p, .of_step hstep hreach, hp⟩

/-! ### A framed byte that ends the buffer -/

/-- The cycles of a frame as 0x100 makes it (R164). -/
def frameCycles (v : Byte) : List Bool := false :: ((dataBits v 8).flatMap bitCycles ++ [true, true])

/-- A completed byte that no Data chunk precedes, with no gap before it, opens one (R206, R209, R218). -/
theorem Demodulator.completeByte_of_new (hpending : pendingEntry d d.dataStart = [])
    (hlast : ∀ e, d.out.getLast? = some e → e.chunk.id ≠ 0x0100) : d.completeByte
      = { d with out := d.out ++ [{ chunk := dataChunk [d.acc], start := d.dataStart, stop := d.pos }]
                 gapPending := false, boundary := d.pos, mode := .stopBit } := by
  obtain ⟨e, he, hdata, -⟩ | ⟨-, hout⟩ := d.appendByte_out d.acc
  · rw [hpending, List.append_nil] at he
    exact absurd hdata (hlast e he)
  · rw [hpending, List.append_nil] at hout
    rw [Demodulator.completeByte, Demodulator.appendByte_eq, hout]

/-- At the end of the buffer nothing is read, and a confirmed boundary there leaves no gap (R221). -/
theorem demStep_startBit_at_end (hmode : d.mode = .startBit) (hpending : d.gapPending = false)
    (hboundary : d.boundary = ib.length) (h : OnCycles depth ib d.pos 0 []) :
    (demStep ib d).mode = .done ∧ (demStep ib d).out = d.out := by
  rw [(startBitStep_spec ib d hmode).2.1 (h.classify_nil 1200),
    (endOfStreamCloses d ib.length).2 (.inl (by simp [hmode]))]
  simp [hpending, hboundary, gapEntry]

/-- The last stop bit is read, and the buffer ends behind it (R219, R221). -/
theorem reaches_done_of_stopBit {e : Emitted} (hmode : d.mode = .stopBit) (hpending : d.gapPending = false)
    (hlast : d.out.getLast? = some e) (h : OnCycles depth ib d.pos 0 [true, true]) :
    ∃ d', Reaches ib d d' ∧ d'.mode = .done ∧ d'.out = d.out.dropLast ++ [{ e with stop := ib.length }] := by
  obtain ⟨next, hread, hnext⟩ := h.readStop
  have hend : next = ib.length := by
    have hle := (readStop_stop hread).2
    have hdrop : ib.drop next = [] := hnext
    have hge := List.drop_eq_nil_iff.mp hdrop
    omega
  have hstep := (stopBitStep_spec ib d e hmode hlast).1 next hread
  obtain ⟨hdone, hout⟩ := demStep_startBit_at_end (d := { d with
    out := d.out.dropLast ++ [{ e with stop := next }], pos := next, boundary := next, origin := .stopBit,
    mode := .startBit }) rfl hpending hend hnext
  exact ⟨_, .of_step hstep (.of_step rfl (.refl _ _)), hdone, by rw [hout, hend]⟩

/-- Eight data bits at the cursor become a Data chunk of their byte (R217, R218). -/
theorem reaches_stopBit {v : Byte} (hmode : d.mode = .byte) (hacc : d.acc = 0) (hidx : d.bitIdx = 0)
    (hpending : pendingEntry d d.dataStart = []) (hlast : ∀ e, d.out.getLast? = some e → e.chunk.id ≠ 0x0100)
    (h : OnCycles depth ib d.pos 0 ((dataBits v 8).flatMap bitCycles ++ cycles)) :
    ∃ d', Reaches ib d d' ∧ d'.mode = .stopBit ∧ d'.gapPending = false
      ∧ d'.out = d.out ++ [{ chunk := dataChunk [v], start := d.dataStart, stop := d'.pos }]
      ∧ OnCycles depth ib d'.pos 0 cycles := by
  obtain ⟨p, hreach, hp⟩ := reaches_completeByte (dataBits v 8) hmode (List.ne_nil_of_length_pos (by simp))
    (by simp [hidx]) h
  have hcomplete := Demodulator.completeByte_of_new (d := { d with acc := v, bitIdx := 8, pos := p }) hpending hlast
  rw [hacc, hidx, accumulate_dataBits, hcomplete] at hreach
  exact ⟨_, hreach, rfl, rfl, rfl, hp⟩

/-- A framed byte at the cursor, the last thing in the buffer, becomes a Data chunk over the rest of it. -/
theorem reaches_done_of_frame {v : Byte} (hmode : d.mode = .startBit) (hz : z ≤ 1)
    (hpending : pendingEntry d d.dataStart = []) (hlast : ∀ e, d.out.getLast? = some e → e.chunk.id ≠ 0x0100)
    (h : OnCycles depth ib d.pos z (frameCycles v)) :
    ∃ d', Reaches ib d d' ∧ d'.mode = .done
      ∧ d'.out = d.out ++ [{ chunk := dataChunk [v], start := d.dataStart, stop := ib.length }] := by
  obtain ⟨⟨l1, l2, hslow⟩, -⟩ := h.slow hz
  have hstart : demStep ib d = d.startByte _ := (startBitStep_spec ib d hmode).1 _ _ _ hslow
  obtain ⟨d', hbyte, hstopBit, hgap, hout, hd'⟩ :=
    reaches_stopBit (d := d.startByte _) rfl rfl rfl hpending hlast h.next
  obtain ⟨d'', hstop, hdone, hout'⟩ :=
    reaches_done_of_stopBit hstopBit hgap (by rw [hout]; exact List.getLast?_concat) hd'
  exact ⟨d'', .of_step hstart (hbyte.trans hstop), hdone, by rw [hout', hout, List.dropLast_concat]; rfl⟩

/-! ### The synchronisation and the carrier -/

/-- `Sync` accepts the cycle that a buffer begins with (R202, R210). -/
theorem demStep_sync_accepts {fast : Bool} (hmode : d.mode = .sync) (h : OnCycles depth ib d.pos 1 (fast :: cycles)) :
    demStep ib d = d.accept := by
  rw [(syncStep_spec ib d hmode).1 _ _ _ h.pulses.1, if_pos ⟨rfl, by cases fast <;> decide⟩]
  rfl

theorem demStep_carrier_counts (hmode : d.mode = .carrier) (hz : z ≤ 1) (h : OnCycles depth ib d.pos z (true :: cycles)) :
    demStep ib d = d.countCycle (cycleEnd d.pos z true cycles) := by
  obtain ⟨⟨l1, l2, hfast⟩, -⟩ := h.fast hz
  exact (carrierStep_spec ib d hmode).1 _ _ _ hfast

/-- A slow cycle ends the run (R213, R214). -/
theorem demStep_carrier_ends (hmode : d.mode = .carrier) (hz : z ≤ 1) (h : OnCycles depth ib d.pos z (false :: cycles)) :
    demStep ib d = d.endRun := by
  obtain ⟨-, hslow⟩ := h.slow hz
  rw [demStep_carrier ib hmode, carrierStep, fFast, hslow]

theorem cycleEnd_fast (p z : Nat) {cycles : List Bool} (hne : cycles ≠ []) : cycleEnd p z true cycles = p + z + 18 := by
  rw [cycleEnd, nextZero_of_ne_nil hne]
  simp only [lowLength, highLength, if_true]
  omega

/-- Fast cycles in front of another cycle are counted (R212). -/
theorem reaches_counted (n : Nat) (hmode : d.mode = .carrier) (hz : z ≤ 1) (hne : cycles ≠ [])
    (h : OnCycles depth ib d.pos z (List.replicate (n + 1) true ++ cycles)) :
    Reaches ib d { d with c := d.c + (n + 1), pos := d.pos + z + 18 * (n + 1), runEnd := d.pos + z + 18 * (n + 1) }
      ∧ OnCycles depth ib (d.pos + z + 18 * (n + 1)) 0 cycles := by
  induction n generalizing d z with
  | zero =>
    have h : OnCycles depth ib d.pos z (true :: cycles) := h
    have hstep := demStep_carrier_counts hmode hz h
    have hnext := h.next
    rw [cycleEnd_fast _ _ hne] at hstep hnext
    exact ⟨.of_step hstep (.refl _ _), hnext⟩
  | succ n ih =>
    have h : OnCycles depth ib d.pos z (true :: (List.replicate (n + 1) true ++ cycles)) := h
    have hstep := demStep_carrier_counts hmode hz h
    have hnext := h.next
    rw [cycleEnd_fast _ _ (by simp [hne])] at hstep hnext
    obtain ⟨hreach, hp⟩ := ih (d := d.countCycle (d.pos + z + 18)) hmode (Nat.zero_le _) hnext
    have hpos : d.pos + z + 18 + 0 + 18 * (n + 1) = d.pos + z + 18 * (n + 1 + 1) := by omega
    have hc : d.c + 1 + (n + 1) = d.c + (n + 1 + 1) := by omega
    simp only [Demodulator.countCycle, hpos, hc] at hreach hp
    exact ⟨.of_step hstep hreach, hp⟩

end

end Sys2Proof.Machine
end

section
/-! The laws of R226: what MOD makes of a byte, alone or behind a carrier, in the canonical configuration, and what DEM makes of
it again. -/

namespace Sys2Proof.Machine

open Sys2Proof.Statement

/-! ### What MOD emits -/

/-- With the codec at reset in the canonical configuration the cycles are those of R131. -/
theorem canonical_cycles {s : State} {depth : Depth} {f : SecCountFormula} (hcfg : s.cfg = canonical depth f)
    (hbase : s.mod.baseFrequency = 1200) (hphase : s.mod.phase = 180) :
    s.slowCycle = canonicalCycle depth false ∧ s.fastCycle = canonicalCycle depth true := by
  obtain ⟨hfast, hslow, -⟩ := canonicalCycles
  have hdouble : (2 : ℚ) * 1200 = 2400 := by norm_num
  constructor
  · rw [State.slowCycle, State.cycle, State.amp, hcfg, hbase, hphase, canonical, hslow]
    rfl
  · rw [State.fastCycle, State.cycle, State.amp, State.fastFrequency, hcfg, hbase, hphase, canonical, hdouble, hfast]
    rfl

theorem wave_bitCycles (depth : Depth) (bits : List Bool) : wave depth (bits.flatMap bitCycles)
    = bits.flatMap (bitTone (canonicalCycle depth false) (canonicalCycle depth true)) := by
  have hbit (b : Bool) : wave depth (bitCycles b)
      = bitTone (canonicalCycle depth false) (canonicalCycle depth true) b := by
    cases b <;> simp [wave, bitCycles, bitTone]
  rw [wave, List.flatMap_assoc]
  exact congrArg bits.flatMap (funext hbit)

theorem frame_eq_wave (depth : Depth) (v : Byte) :
    frame (canonicalCycle depth false) (canonicalCycle depth true) v 8 0x4E 1 = wave depth (frameCycles v) := by
  have hcycles : frameCycles v = (frameBits v 8 0x4E 1).flatMap bitCycles := by
    rw [show frameBits v 8 0x4E 1 = _ from frameBits_plain v, List.flatMap_cons, List.flatMap_append]
    rfl
  rw [hcycles, wave_bitCycles, frame, if_neg (by decide), List.append_nil]

theorem wave_replicate_fast (depth : Depth) (n : Nat) :
    wave depth (List.replicate n true) = (List.replicate n (canonicalCycle depth true)).flatten := by
  rw [wave, List.flatMap_def, List.map_replicate]

theorem u16At_u16Bytes {n : Nat} (hn : n ≤ 65535) : u16At (u16Bytes n) 0 = n := by
  have hread := leNat_take_two (payload := u16Bytes n) (off := 0) le_rfl
  rw [← hread, ← leBytes_two]
  exact (leNat_leBytes 2 n).trans (Nat.mod_eq_of_lt (by omega))

/-- A data block as a step of a run (R164). -/
theorem runMod_data {s : State} {bytes : List Byte} (hrun : s.mod.status = .running)
    (hfetch : s.cs[s.mod.cp]? = some { id := 0x0100, payload := bytes }) (fuel : Nat) : runMod (fuel + 1) s
      = runMod fuel (afterEmit s (bytes.flatMap fun v => frame s.slowCycle s.fastCycle v 8 0x4E 1)) :=
  runMod_succ hrun ((stepMod_eq_exec hfetch).trans (dataFramesEveryByte.1 bytes s)) fuel

/-- A carrier tone as a step of a run (R166). -/
theorem runMod_carrier {s : State} {n : Nat} (hn : n ≤ 65535) (hrun : s.mod.status = .running)
    (hfetch : s.cs[s.mod.cp]? = some { id := 0x0110, payload := u16Bytes n }) (fuel : Nat) :
    runMod (fuel + 1) s = runMod fuel (afterEmit s (List.replicate n s.fastCycle).flatten) := by
  have hexec := (carrierEmitsFastCycles (u16Bytes n) s).1 le_rfl
  rw [u16At_u16Bytes hn] at hexec
  exact runMod_succ hrun ((stepMod_eq_exec hfetch).trans hexec) fuel

theorem runMod_ends {s : State} (hrun : s.mod.status = .running) (hend : s.mod.cp = s.cs.length) :
    (runMod 1 s).mod.out = s.mod.out := by
  rw [runMod_succ hrun (stepMod_at_end hend)]
  rfl

/-- A lone byte (R164). -/
theorem modFinal_data (depth : Depth) (f : SecCountFormula) (b : Byte) :
    (modFinal [{ id := 0x0100, payload := [b] }] (canonical depth f)).mod.out = wave depth (frameCycles b) := by
  rw [modFinal]
  generalize hs : modStart [{ id := 0x0100, payload := [b] }] (canonical depth f) = s
  obtain ⟨hslow, hfast⟩ := canonical_cycles (s := s) (depth := depth) (f := f) (hs ▸ rfl) (hs ▸ rfl) (hs ▸ rfl)
  rw [runMod_data (bytes := [b]) (hs ▸ rfl) (hs ▸ rfl), List.flatMap_singleton, hslow, hfast, frame_eq_wave,
    List.length_singleton, runMod_ends (hs ▸ rfl) (hs ▸ rfl), ← hs]
  rfl

/-- A carrier and a byte (R164, R166). -/
theorem modFinal_carrier_data (depth : Depth) (f : SecCountFormula) (b : Byte) {n : Nat} (hn : n ≤ 65535) :
    (modFinal [{ id := 0x0110, payload := u16Bytes n }, { id := 0x0100, payload := [b] }] (canonical depth f)).mod.out
      = wave depth (List.replicate n true ++ frameCycles b) := by
  rw [modFinal]
  generalize hs : modStart [{ id := 0x0110, payload := u16Bytes n }, { id := 0x0100, payload := [b] }]
    (canonical depth f) = s
  obtain ⟨hslow, hfast⟩ := canonical_cycles (s := s) (depth := depth) (f := f) (hs ▸ rfl) (hs ▸ rfl) (hs ▸ rfl)
  rw [List.length_cons, List.length_singleton, runMod_carrier hn (hs ▸ rfl) (hs ▸ rfl), hfast, ← wave_replicate_fast]
  generalize hu : afterEmit s (wave depth (List.replicate n true)) = u
  obtain ⟨hslow', hfast'⟩ : u.slowCycle = canonicalCycle depth false ∧ u.fastCycle = canonicalCycle depth true := by
    rw [← hu]
    exact ⟨hslow, hfast⟩
  rw [runMod_data (bytes := [b]) (by rw [← hu, ← hs]; rfl) (by rw [← hu, ← hs]; rfl), List.flatMap_singleton, hslow',
    hfast', frame_eq_wave, runMod_ends (by rw [← hu, ← hs]; rfl) (by rw [← hu, ← hs]; rfl), wave_append, ← hu, ← hs]
  rfl

/-! ### What DEM makes of it -/

theorem wave_frameCycles_length (depth : Depth) (v : Byte) :
    (wave depth (frameCycles v)).length = 369 - (dataBits v 8).count true := by
  obtain ⟨hslow, hfast⟩ := canonical_cycles (s := modStart [] (canonical depth .intent)) rfl rfl rfl
  rw [← frame_eq_wave, ← hslow, ← hfast]
  exact dataFramesEveryByte.2 v depth .intent

theorem wave_replicate_fast_length (depth : Depth) (n : Nat) : (wave depth (List.replicate n true)).length = 18 * n := by
  rw [wave_replicate_fast, replicate_flatten_length, canonicalCycle, cycleSamples_length, if_pos rfl, Nat.mul_comm]

/-- A lone byte: the start bit itself synchronises, and the run it is taken for has no cycle (R210, R214). -/
theorem demFinal_frame (depth : Depth) (v : Byte) : (demFinal (wave depth (frameCycles v))).out
    = [{ chunk := dataChunk [v], start := 0, stop := (wave depth (frameCycles v)).length }] := by
  have hon : OnCycles depth (wave depth (frameCycles v)) 0 1 (frameCycles v) := onCycles_wave depth _ _
  have haccept := demStep_sync_accepts (d := Demodulator.reset) rfl hon
  have hends := demStep_carrier_ends (d := Demodulator.reset.accept) rfl le_rfl hon
  obtain ⟨d, hreach, hdone, hout⟩ :=
    reaches_done_of_frame (d := Demodulator.reset.accept.endRun) rfl le_rfl rfl (fun e he => by cases he) hon
  rw [demFinal_eq_of_reaches (.of_step haccept (.of_step hends hreach)) hdone, hout]
  rfl

/-- The count of a run of at most 65535 cycles and one sample fits one chunk (R207). -/
theorem carrierCycles_fits {n : Nat} (hn : n ≤ 65535) : carrierCycles (18 * n + 1) ≤ 65535 := by
  have hnear := (abs_lt.mp (carrierCycles_nearest (18 * n + 1))).1
  have hn' : (n : ℚ) ≤ 65535 := by exact_mod_cast hn
  have hlt : (carrierCycles (18 * n + 1) : ℚ) < (65536 : Nat) := by
    push_cast at hnear ⊢
    linarith
  have := Nat.cast_lt.mp hlt
  omega

theorem carrierEntry_not_data (count start stop : Nat) :
    ({ chunk := carrierChunk count, start := start, stop := stop } : Emitted).chunk.id ≠ 0x0100 :=
  show (0x0110 : U16) ≠ 0x0100 by decide

/-- The end of a run from the start of the buffer, long enough for a carrier and short enough for one chunk (R207, R213). -/
theorem endRun_of_carrier {d : Demodulator} {n : Nat} (hc : 19 ≤ d.c) (hout : d.out = []) (hstart : d.runStart = 0)
    (hgap : d.gapStart = 0) (hend : d.runEnd = 18 * n + 1) (hn : n ≤ 65535) : d.endRun =
      { d with out := [{ chunk := carrierChunk (carrierCycles (18 * n + 1)), start := 0, stop := 18 * n + 1 }]
               gapPending := false, boundary := 18 * n + 1, origin := .carrier, dataStart := 18 * n + 1
               mode := .startBit } := by
  have hpending : pendingEntry d d.runStart = [] := by simp [pendingEntry, gapEntry, hstart, hgap]
  have hentries : runEntries d
      = [{ chunk := carrierChunk (carrierCycles (18 * n + 1)), start := 0, stop := 18 * n + 1 }] := by
    rw [runEntries, hstart, hend, Nat.sub_zero, carrierCounts_eq, if_pos (carrierCycles_fits hn)]
    rfl
  rw [Demodulator.endRun_eq, if_pos hc, hpending, hentries, hout, hend]
  rfl

/-- A carrier and a byte: the run is counted up to the zero of the start bit (R212, R213). -/
theorem demFinal_carrier_frame (depth : Depth) (v : Byte) {n : Nat} (hlow : 19 ≤ n) (hn : n ≤ 65535) :
    (demFinal (wave depth (List.replicate n true ++ frameCycles v))).out
      = [{ chunk := carrierChunk (carrierCycles (18 * n + 1)), start := 0, stop := 18 * n + 1 },
        { chunk := dataChunk [v], start := 18 * n + 1
          stop := (wave depth (List.replicate n true ++ frameCycles v)).length }] := by
  obtain ⟨m, rfl⟩ : ∃ m, n = m + 1 := ⟨n - 1, by omega⟩
  generalize hib : wave depth (List.replicate (m + 1) true ++ frameCycles v) = ib
  have hon : OnCycles depth ib 0 1 (List.replicate (m + 1) true ++ frameCycles v) := hib ▸ onCycles_wave depth _ _
  have haccept := demStep_sync_accepts (d := Demodulator.reset) rfl hon
  obtain ⟨hcounted, hslow⟩ := reaches_counted (d := Demodulator.reset.accept) m rfl le_rfl (List.cons_ne_nil _ _) hon
  have hpos : Demodulator.reset.accept.pos + 1 + 18 * (m + 1) = 18 * (m + 1) + 1 := by
    change 0 + 1 + 18 * (m + 1) = _
    omega
  rw [hpos] at hcounted hslow
  have hends := demStep_carrier_ends (d := { Demodulator.reset.accept with
    c := Demodulator.reset.accept.c + (m + 1), pos := 18 * (m + 1) + 1, runEnd := 18 * (m + 1) + 1 })
    rfl (Nat.zero_le _) hslow
  rw [endRun_of_carrier (n := m + 1) (by change 19 ≤ 0 + (m + 1); omega) rfl rfl rfl rfl hn] at hends
  obtain ⟨d, hreach, hdone, hout⟩ := reaches_done_of_frame (d := { Demodulator.reset.accept with
    c := Demodulator.reset.accept.c + (m + 1), pos := 18 * (m + 1) + 1, runEnd := 18 * (m + 1) + 1
    out := [{ chunk := carrierChunk (carrierCycles (18 * (m + 1) + 1)), start := 0, stop := 18 * (m + 1) + 1 }]
    gapPending := false, boundary := 18 * (m + 1) + 1, origin := .carrier, dataStart := 18 * (m + 1) + 1
    mode := .startBit }) rfl (Nat.zero_le _) rfl (fun e he => by obtain rfl := Option.some.inj he; exact carrierEntry_not_data _ _ _) hslow
  rw [demFinal_eq_of_reaches (.of_step haccept (hcounted.trans (.of_step hends hreach))) hdone, hout]
  rfl

/-! ### The laws -/

theorem modulate_stream (chunks : List Chunk) (cfg : Configuration) :
    (modulate chunks cfg).stream = storeSamples cfg.depth (modFinal chunks cfg).mod.out := rfl

/-- Settles O59: the stored stream loads as the emitted one, a row of canonical cycles. -/
theorem bitFramingLaw : Obligations.BitFramingLaw := by
  intro b depth f stream
  have hstream : loadSamples depth stream = wave depth (frameCycles b) := by
    change loadSamples depth (modulate _ _).stream = _
    rw [modulate_stream, modFinal_data]
    exact loadSamples_storeSamples depth _ fun x hx => inRange_of_mem_wave hx
  rw [hstream, demodulate, demFinal_frame, wave_frameCycles_length]
  simp [dataChunk]

/-- Settles O60: the emitted stream is a row of canonical cycles, whose fast ones are the run. -/
theorem carrierThenByteIsRecovered : Obligations.CarrierThenByteIsRecovered := by
  intro n b f hlow hhigh chunks out
  have hout : out = wave .d16 (List.replicate n true ++ frameCycles b) := modFinal_carrier_data .d16 f b hhigh
  have hones : (dataBits b 8).count true ≤ 8 := List.count_le_length.trans_eq (dataBits_length b 8)
  have hlength : (wave .d16 (List.replicate n true ++ frameCycles b)).length
      = 18 * n + 369 - (dataBits b 8).count true := by
    rw [wave_append, List.length_append, wave_replicate_fast_length, wave_frameCycles_length]
    omega
  rw [hout, demodulate, demFinal_carrier_frame .d16 b hlow hhigh, hlength]
  rfl

end Sys2Proof.Machine
end
